-- ==== Sys2Proof/Word.lean ====
section
/-! DEFINITION. The values the block handles: command words and bytes, bits, levels, state-register values, scheme
identifiers, and the responses of a transaction (00_scope.md R2, R10, R17; 10_state.md R31). -/

namespace Sys2Proof

/-- An 8-bit character code of the byte realisation (30_encoding.md R54). -/
abbrev Byte := BitVec 8

/-- A command word, `CMD_WIDTH` = 4 bits wide (30_encoding.md R50). -/
abbrev CommandWord := BitVec 4

/-- `Bit`, the set of 0 and 1 (R10). -/
inductive Bit where
  | zero
  | one
  deriving DecidableEq, Repr, Inhabited

/-- `Pol`, the values −1 and +1 a state register may hold (R10, R24). -/
inductive Pol where
  | minus
  | plus
  deriving DecidableEq, Repr, Inhabited

/-- `Level`, the values −1, 0 and +1 (R10). -/
inductive Level where
  | neg
  | zero
  | pos
  deriving DecidableEq, Repr, Inhabited

/-- `SchemeId`, the closed set of the seven identifiers (R2). -/
inductive SchemeId where
  | nrzL
  | nrzI
  | bipolarAmi
  | pseudoternary
  | manchester
  | differentialManchester
  | b8zs
  deriving DecidableEq, Repr, Inhabited

/-- The single error kind (60_exceptions.md R95). It carries no payload. -/
inductive ErrorKind where
  | invalidInput
  deriving DecidableEq, Repr, Inhabited

/-- `EncodingResult`, the triple (Signal, TimeAxis, BitString) (10_state.md R31). -/
structure EncodingResult where
  sig : List Level
  tax : List Nat
  bits : List Bit
  deriving DecidableEq, Repr, Inhabited

/-- What a transaction returns (R17). The two refusals of R98 are no response of the block (R58): they are the
machine's `Refusal`. -/
inductive Response where
  | ok (result : EncodingResult)
  | schemeList (schemes : List SchemeId)
  | err (kind : ErrorKind)
  deriving DecidableEq, Repr, Inhabited

end Sys2Proof
end

