-- ==== Sys2Proof/Config.lean ====
section
/-! DEFINITION. What an implementation fixes: the OPEN parameters N_MAX, IDX_WIDTH and BUF_MAP of
92_eei_decisions.md, and the free values, each an opaque constant of which nothing is known. -/

namespace Sys2Proof

/-- `BUF_MAP`: where a realisation with shared memory places the four sequences (20_memory.md R43, D28). -/
structure BufMap where
  inAt : Nat
  sigAt : Nat
  taxAt : Nat
  bitsAt : Nat
  deriving DecidableEq, Repr, Inhabited

/-- The parameters of one instance, fixed for the machine. `none` is the spec's model default for each: unbounded
input, unbounded indices, sequences carried in the transaction (92_eei_decisions.md, last table). -/
structure Params where
  /-- `N_MAX`, the longest input an instance accepts (R9, D8). -/
  nMax : Option Nat
  /-- `IDX_WIDTH`, the width of the cursor and of sample indices (R57, D20). -/
  idxWidth : Option Nat
  /-- `BUF_MAP` (R43, D28). -/
  bufMap : Option BufMap
  deriving DecidableEq, Repr, Inhabited

/-- Every parameter at the spec's model default. -/
def Params.default : Params := { nMax := none, idxWidth := none, bufMap := none }

/-- FREE VALUE (log entry 12). The response of a transaction whose operand the host rewrote between its issue and
its response, in a realisation that does not capture it (70_reset_and_hazards.md R115, U7); the argument is the
transaction's place in the list of responses. -/
opaque Config.racedResponse : Nat → Response

/-- FREE VALUE (log entry 13). What stands in the bits of a packed word above its last element, be the word short of
elements or wider than they are (20_memory.md R38 does not say); the argument is the word's index. -/
opaque Config.packFill : Nat → Nat

/-- FREE VALUE (log entry 14). What a reader outside the block makes of level code `0b10` (30_encoding.md R56, U6). -/
opaque Config.strayLevel : Level

end Sys2Proof
end

