-- ==== Sys2Proof/Syntax.lean ====
section
/-! DEFINITION. The commands of the block, one constructor per row of spec/opcode_table.json (30_encoding.md R52). -/

namespace Sys2Proof

/-- A command with the operand it reads. Every ENCODE carries the candidate string `In`, whose characters may be any
(10_state.md R21). LIST_SCHEMES reads no operand (40_pipeline.md R75). -/
inductive Instr where
  | encodeNrzL (inp : List Char)
  | encodeNrzI (inp : List Char)
  | encodeBipolarAmi (inp : List Char)
  | encodePseudoternary (inp : List Char)
  | encodeManchester (inp : List Char)
  | encodeDifferentialManchester (inp : List Char)
  | encodeB8zs (inp : List Char)
  | listSchemes
  deriving DecidableEq, Repr, Inhabited

/-- `ENCODE <scheme>` of a candidate string (40_pipeline.md R63). -/
def Instr.encodeOf (sch : SchemeId) (inp : List Char) : Instr :=
  match sch with
  | .nrzL => .encodeNrzL inp
  | .nrzI => .encodeNrzI inp
  | .bipolarAmi => .encodeBipolarAmi inp
  | .pseudoternary => .encodePseudoternary inp
  | .manchester => .encodeManchester inp
  | .differentialManchester => .encodeDifferentialManchester inp
  | .b8zs => .encodeB8zs inp

/-- The scheme an ENCODE selects; LIST_SCHEMES selects none (10_state.md R20). -/
def Instr.scheme? (i : Instr) : Option SchemeId :=
  match i with
  | .encodeNrzL _ => some .nrzL
  | .encodeNrzI _ => some .nrzI
  | .encodeBipolarAmi _ => some .bipolarAmi
  | .encodePseudoternary _ => some .pseudoternary
  | .encodeManchester _ => some .manchester
  | .encodeDifferentialManchester _ => some .differentialManchester
  | .encodeB8zs _ => some .b8zs
  | .listSchemes => none

/-- The candidate string a command reads; LIST_SCHEMES reads none. -/
def Instr.operand (i : Instr) : List Char :=
  match i with
  | .encodeNrzL inp => inp
  | .encodeNrzI inp => inp
  | .encodeBipolarAmi inp => inp
  | .encodePseudoternary inp => inp
  | .encodeManchester inp => inp
  | .encodeDifferentialManchester inp => inp
  | .encodeB8zs inp => inp
  | .listSchemes => []

end Sys2Proof
end

