-- ==== Sys2Proof/WellFormed.lean ====
section
/-! DEFINITION. Which commands have a byte encoding, and which parameters an instance may have. -/

namespace Sys2Proof

/-- A character has a code in the byte realisation, where a character is an 8-bit code (30_encoding.md R54). -/
def charFitsByte (c : Char) : Bool := decide (c.toNat < 256)

/-- A command can be written in the byte realisation: every character of its operand has a code (R54). The model runs
a command whether or not it is well formed: `In` may hold any character (10_state.md R21). -/
def Instr.wf (i : Instr) : Bool := i.operand.all charFitsByte

/-- `N_MAX` is unbounded or a positive natural number (D8). -/
def Params.nMaxPositive (p : Params) : Bool := decide (p.nMax ≠ some 0)

/-- `IDX_WIDTH` holds the cursor and every sample index of the longest input (00_scope.md §4, D20); a finite width
needs a finite `N_MAX`. -/
def Params.idxWide (p : Params) : Bool :=
  match p.idxWidth, p.nMax with
  | none, _ => true
  | some _, none => false
  | some w, some n => decide (n + 1 ≤ 2 ^ w ∧ 2 * n ≤ 2 ^ w)

/-- The parameters of an instance are ones the spec admits. -/
def Params.wf (p : Params) : Bool := p.nMaxPositive && p.idxWide

end Sys2Proof
end

