-- ==== Sys2Proof/Decode.lean ====
section
/-! DEFINITION. The command word and its operand: decoding, total on all sixteen words and on any operand, rejecting by
name; then the encoder, written from the same table (30_encoding.md R50 to R55). -/

namespace Sys2Proof

/-- Field `op`, bit 3 of the word (R50). -/
def opField (w : CommandWord) : BitVec 1 := w.extractLsb' 3 1

/-- Field `scheme`, bits 2 to 0 of the word (R50). -/
def schemeField (w : CommandWord) : BitVec 3 := w.extractLsb' 0 3

/-- The scheme a scheme code numbers; code 7 is reserved (R51). -/
def schemeOfCode (c : BitVec 3) : Option SchemeId :=
  match c.toNat with
  | 0 => some .nrzL
  | 1 => some .nrzI
  | 2 => some .bipolarAmi
  | 3 => some .pseudoternary
  | 4 => some .manchester
  | 5 => some .differentialManchester
  | 6 => some .b8zs
  | _ => none

/-- The 3-bit code of a scheme (R51). -/
def codeOfScheme (sch : SchemeId) : BitVec 3 :=
  match sch with
  | .nrzL => 0b000#3
  | .nrzI => 0b001#3
  | .bipolarAmi => 0b010#3
  | .pseudoternary => 0b011#3
  | .manchester => 0b100#3
  | .differentialManchester => 0b101#3
  | .b8zs => 0b110#3

/-- The scheme table: entry i holds the scheme whose code is i (10_state.md R19). -/
def schemeTableConst : List SchemeId :=
  [.nrzL, .nrzI, .bipolarAmi, .pseudoternary, .manchester, .differentialManchester, .b8zs]

/-- Why a command word does not decode. -/
inductive Reject where
  /-- A reserved word: `0x7` or `0x9` to `0xF` (R53). -/
  | reservedCommand (w : CommandWord)
  deriving DecidableEq, Repr

/-- The command of a word and the operand beside it (R52). LIST_SCHEMES does not read its operand (40_pipeline.md
R75), and a reserved word does not either (R53). -/
def decode (w : CommandWord) (inp : List Char) : Except Reject Instr :=
  if opField w = 0#1 then
    match schemeOfCode (schemeField w) with
    | some sch => .ok (Instr.encodeOf sch inp)
    | none => .error (.reservedCommand w)
  else if schemeField w = 0#3 then .ok .listSchemes
  else .error (.reservedCommand w)

/-- The character of an 8-bit code in the byte realisation, ASCII's for the digits (R54, log entry 5). -/
def charOfByte (b : Byte) : Char := Char.ofNat b.toNat

/-- The 8-bit code of a character that has one (R54). -/
def byteOfChar (c : Char) : Byte := BitVec.ofNat 8 c.toNat

/-- Decoding a transaction of the byte realisation: the command word, then the operand bytes (95_test_vectors.md §3). -/
def decodeBytes (w : CommandWord) (bytes : List Byte) : Except Reject Instr := decode w (bytes.map charOfByte)

/-- The command word of an instruction: `op` above `scheme` (R50, R52). -/
def encodeWord (i : Instr) : CommandWord :=
  match i.scheme? with
  | some sch => 0#1 ++ codeOfScheme sch
  | none => 1#1 ++ 0#3

/-- The operand bytes of an instruction (R54). -/
def encodeOperand (i : Instr) : List Byte := i.operand.map byteOfChar

/-- A whole transaction in the byte realisation (95_test_vectors.md §3). -/
def encode (i : Instr) : CommandWord × List Byte := (encodeWord i, encodeOperand i)

/-- The instruction the decoder reads from the bits `w` of a row of spec/opcode_table.json. The word is the low four
bits; the table gives the operand no bits, so the operand is the empty string (log entry 15). -/
def decodeTableWord (nbits w : Nat) : Option Instr :=
  if 4 ≤ nbits ∧ w < 16 then
    match decode (BitVec.ofNat 4 w) [] with
    | .ok i => some i
    | .error _ => none
  else none

end Sys2Proof
end

