-- ==== Sys2Proof/Machine/State.lean ====
section
/-! DEFINITION. The state of the machine as plain data, the reasons it stops, and the state after reset. -/

namespace Sys2Proof.Machine

/-- The stages of an ENCODE, in the fixed order of 10_state.md R27. The value says which stage comes next. -/
inductive Stage where
  | validate
  | encode
  | expand
  | timeAxis
  | assemble
  deriving DecidableEq, Repr, Inhabited

/-- The operands and working registers of one ENCODE transaction (10_state.md R20 to R23, R31, R32). They exist only
during it. -/
structure Work where
  /-- The scheme the captured command word selects (R20). -/
  scheme : SchemeId
  /-- `In`, captured whole at the start (R21, 20_memory.md R46). -/
  inp : List Char
  /-- `b`, the validated bits (R22). -/
  b : List Bit
  /-- `cur`, the index of the next bit not yet consumed (R25). -/
  cur : Nat
  /-- NRZ-I's current level. -/
  level : Pol
  /-- Bipolar-AMI's `pol`. -/
  polAmi : Pol
  /-- Pseudoternary's `pol`. -/
  polPt : Pol
  /-- Differential-Manchester's reference level. -/
  ref : Pol
  /-- B8ZS's `pol`. -/
  polB8zs : Pol
  /-- `Raw`, the encoder's output before expansion (R32). -/
  raw : List Level
  /-- `Sig`, the final samples (R31). -/
  sig : List Level
  /-- `Tax`, the time axis (R31). -/
  tax : List Nat
  /-- The stage that comes next (R27). -/
  stage : Stage
  /-- The host has rewritten `In` since it issued this transaction, in a realisation that does not capture it
  (70_reset_and_hazards.md R115). What the other registers hold then does not matter. -/
  raced : Bool
  deriving DecidableEq, Repr, Inhabited

/-- What the host does to the block between transactions (70_reset_and_hazards.md R119). -/
inductive HostAction where
  /-- Issue a transaction: a command word and the candidate string beside it. -/
  | command (w : CommandWord) (inp : List Char)
  /-- A transaction that was issued and whose candidate string the host has rewritten since, before it began, in a
  realisation that does not capture it (R115). Its operand is not known. -/
  | racedCommand (w : CommandWord)
  /-- Reset the block, no transaction being in flight (R111). -/
  | reset
  deriving DecidableEq, Repr, Inhabited

/-- The machine: one instance of the block, and what its host has sent and received. -/
structure State where
  /-- The instance's parameters, fixed for the machine (log entry 3). -/
  params : Params
  /-- The scheme table, the one thing the block holds between transactions (10_state.md R18, R19). -/
  schemeTable : List SchemeId
  /-- The registers of the transaction in flight; `none` between transactions (R35). -/
  work : Option Work
  /-- The host's: actions issued and not yet performed, oldest first (20_memory.md R45, log entry 7). -/
  issued : List HostAction
  /-- The host's: the responses returned so far, in issue order (70_reset_and_hazards.md R118, log entry 7). -/
  responses : List Response
  deriving DecidableEq, Repr, Inhabited

/-- Why the machine stops with a fault. Nothing raises one: the block has no fault and no stuck state (R97,
93_implementation_defined.md §2), so the type is empty. That is safe only as far as R97 is right (log entry 23). -/
inductive Fault where
  deriving DecidableEq, Repr

/-- Why a transaction has no meaning (60_exceptions.md R98). -/
inductive Refusal where
  /-- An instruction the model gives no meaning yet. Raised by no arm of `exec`. Safe: nothing is proved through it. -/
  | notModelled (mnemonic : String)
  /-- `Refused(ReservedCommand)` (30_encoding.md R53). Raised by `step` on a reserved command word. Safe: a refused
  transaction proves nothing (R98). -/
  | reservedCommand (w : CommandWord)
  /-- `Refused(TooLong)` (00_scope.md R9). Raised by every ENCODE whose operand is longer than a finite `N_MAX`. Safe:
  a refused transaction proves nothing (R98). -/
  | tooLong
  deriving DecidableEq, Repr

/-- The machine right after reset (70_reset_and_hazards.md R111): the scheme table, no transaction in flight, no result
and no status. The parameters are at the spec's model defaults (log entry 3), and the host has issued nothing. -/
def State.reset : State :=
  { params := Params.default
    schemeTable := schemeTableConst
    work := none
    issued := []
    responses := [] }

end Sys2Proof.Machine
end

