-- ==== Sys2Proof/Machine/Ops.lean ====
section
/-! DEFINITION. The named operations: levels and polarities, the working registers of a transaction, its response, the
error, and reset (00_scope.md R10, R13; 10_state.md R23; 60_exceptions.md R101; 70_reset_and_hazards.md R111). -/

namespace Sys2Proof

/-- A level as the integer it is (R10). -/
def Level.toInt (l : Level) : Int :=
  match l with
  | .neg => -1
  | .zero => 0
  | .pos => 1

/-- Negation of a level (R10). -/
def Level.opp (l : Level) : Level :=
  match l with
  | .neg => .pos
  | .zero => .zero
  | .pos => .neg

/-- A register value as a level. -/
def Pol.toLevel (p : Pol) : Level :=
  match p with
  | .minus => .neg
  | .plus => .pos

/-- Negation of a register value, the only write to `level`, `pol` and `ref` (10_state.md R24). -/
def Pol.opp (p : Pol) : Pol :=
  match p with
  | .minus => .plus
  | .plus => .minus

/-- A bit as the number it is (R10). -/
def Bit.toNat (x : Bit) : Nat :=
  match x with
  | .zero => 0
  | .one => 1

/-- The other bit, `not` of 42_ami.md R83. -/
def Bit.flip (x : Bit) : Bit :=
  match x with
  | .zero => .one
  | .one => .zero

namespace Machine

/-- NRZ-I's level before the first symbol, −1 (10_state.md R23). -/
def initNrziLevel : Pol := .minus

/-- Bipolar-AMI's initial polarity, +1 (R23). -/
def initAmiPol : Pol := .plus

/-- Pseudoternary's initial polarity, +1 (R23). -/
def initPtPol : Pol := .plus

/-- Differential-Manchester's initial reference level, −1 (R23). -/
def initDmRef : Pol := .minus

/-- B8ZS's initial polarity, +1 (R23). -/
def initB8zsPol : Pol := .plus

/-- Start an ENCODE: the command and the operand are captured (20_memory.md R46) and every working register takes its
initial value (10_state.md R35). -/
def Work.capture (sch : SchemeId) (inp : List Char) : Work :=
  { scheme := sch, inp := inp, b := [], cur := 0
    level := initNrziLevel, polAmi := initAmiPol, polPt := initPtPol, ref := initDmRef, polB8zs := initB8zsPol
    raw := [], sig := [], tax := [], stage := .validate, raced := false }

/-- The host rewrites `In` under the transaction in flight (70_reset_and_hazards.md R115). -/
def Work.setRaced (w : Work) : Work := { w with raced := true }

/-- Start an ENCODE whose candidate string was rewritten since it was issued. Its operand is not known, and no response
depends on the one that stands here (R115, log entry 27). -/
def Work.captureRaced (sch : SchemeId) : Work := (Work.capture sch []).setRaced

/-- `MemRead(b, cur)`; `none` past the last bit (00_scope.md R13). -/
def Work.readBit (w : Work) : Option Bit := w.b[w.cur]?

/-- `emit(v)`: append a level to `Raw` (R13). -/
def Work.emit (w : Work) (v : Level) : Work := { w with raw := w.raw ++ [v] }

/-- Append the levels of a block to `Raw`, in order (44_b8zs.md R90). -/
def Work.emitAll (w : Work) (vs : List Level) : Work := { w with raw := w.raw ++ vs }

/-- `cur <- cur + k` (R13, 10_state.md R25). -/
def Work.advance (w : Work) (k : Nat) : Work := { w with cur := w.cur + k }

/-- `level <- v` (R13). -/
def Work.setLevel (w : Work) (v : Pol) : Work := { w with level := v }

/-- `pol <- v`, Bipolar-AMI's register (R13). -/
def Work.setPolAmi (w : Work) (v : Pol) : Work := { w with polAmi := v }

/-- `pol <- v`, Pseudoternary's register (R13). -/
def Work.setPolPt (w : Work) (v : Pol) : Work := { w with polPt := v }

/-- `ref <- v` (R13). -/
def Work.setRef (w : Work) (v : Pol) : Work := { w with ref := v }

/-- `pol <- v`, B8ZS's register (R13). -/
def Work.setPolB8zs (w : Work) (v : Pol) : Work := { w with polB8zs := v }

/-- The validator's whole-sequence write of `b` (20_memory.md R36). -/
def Work.setB (w : Work) (bits : List Bit) : Work := { w with b := bits }

/-- The whole-sequence write of `Sig` (20_memory.md R42). -/
def Work.setSig (w : Work) (sig : List Level) : Work := { w with sig := sig }

/-- The whole-sequence write of `Tax` (20_memory.md R42). -/
def Work.setTax (w : Work) (tax : List Nat) : Work := { w with tax := tax }

/-- Which stage comes next (10_state.md R27). -/
def Work.setStage (w : Work) (stage : Stage) : Work := { w with stage := stage }

/-- Return the response of the transaction: it goes to the host, and the working registers exist no more
(10_state.md R33, R35). -/
def State.respond (s : State) (r : Response) : State :=
  { s with responses := s.responses ++ [r], work := none }

/-- Taking the error: the transaction ends at once with `Err(InvalidInput)` and nothing else leaves it
(60_exceptions.md R96, R101). There is no return from it (R102). -/
def State.raiseInvalidInput (s : State) : State := s.respond (.err .invalidInput)

/-- The response of a transaction whose operand was rewritten between its issue and its response: a free value
(70_reset_and_hazards.md R115, U7, log entry 12). -/
def State.racedRespond (s : State) : State := s.respond (Config.racedResponse s.responses.length)

/-- The end of a transaction: `t`, unless the operand was rewritten under it. -/
def State.unlessRaced (s : State) (raced : Bool) (t : State) : State := if raced then s.racedRespond else t

/-- The state with these working registers in flight. -/
def State.withWork (s : State) (w : Work) : State := { s with work := some w }

/-- Reset: the table is kept and no transaction is in flight (70_reset_and_hazards.md R111). -/
def State.resetBlock (s : State) : State := { s with work := none }

/-- The operand is longer than a finite `N_MAX` (00_scope.md R9). -/
def tooLong (p : Params) (inp : List Char) : Bool :=
  match p.nMax with
  | none => false
  | some n => decide (n < inp.length)

end Machine

end Sys2Proof
end

