-- ==== Sys2Proof/Machine/Ami.lean ====
section
/-! DEFINITION. The loop bodies of the Bipolar-AMI and Pseudoternary encoders (42_ami.md R80, R82). -/

namespace Sys2Proof.Machine

/-- Bipolar-AMI: a 1 emits the polarity and then inverts it; a 0 emits 0 (R80). -/
def scanBipolarAmi (w : Work) : Work :=
  match w.readBit with
  | some .zero => (w.emit .zero).advance 1
  | some .one => ((w.emit w.polAmi.toLevel).setPolAmi w.polAmi.opp).advance 1
  | none => w

/-- Pseudoternary: a 0 emits the polarity and then inverts it; a 1 emits 0 (R82). -/
def scanPseudoternary (w : Work) : Work :=
  match w.readBit with
  | some .zero => ((w.emit w.polPt.toLevel).setPolPt w.polPt.opp).advance 1
  | some .one => (w.emit .zero).advance 1
  | none => w

end Sys2Proof.Machine
end

