-- ==== Sys2Proof/Machine/B8zs.lean ====
section
/-! DEFINITION. The loop body of the B8ZS encoder with its lookahead (44_b8zs.md R88 to R92), and the lookahead's length
test in indices of finite width (10_state.md R26). -/

namespace Sys2Proof.Machine

/-- The lookahead and block length, `B8ZS_WINDOW` (R89). -/
def b8zsWindow : Nat := 8

/-- The substitution test: at least 8 bits remain and the next 8 are all 0 (R89). -/
def Work.zeroBlockAhead (w : Work) : Bool :=
  decide (w.cur + b8zsWindow ≤ w.b.length) &&
    decide ((w.b.drop w.cur).take b8zsWindow = List.replicate b8zsWindow Bit.zero)

/-- The substitution block for a polarity, literally as R90's table gives the two. -/
def substitutionBlock (p : Pol) : List Level :=
  match p with
  | .plus => [.zero, .zero, .zero, .neg, .zero, .pos, .neg, .pos]
  | .minus => [.zero, .zero, .zero, .pos, .zero, .neg, .pos, .neg]

/-- B8ZS: a block where the test succeeds, `pol` not written (R90, R91); else one bit as in AMI (R92). -/
def scanB8zs (w : Work) : Work :=
  if w.zeroBlockAhead then (w.emitAll (substitutionBlock w.polB8zs)).advance b8zsWindow
  else
    match w.readBit with
    | some .zero => (w.emit .zero).advance 1
    | some .one => ((w.emit w.polB8zs.toLevel).setPolB8zs w.polB8zs.opp).advance 1
    | none => w

/-- The length test as a realisation with `width`-bit indices may compute it, `n − cur ≥ 8` (10_state.md R26). -/
def blockFitsNarrow (width cur n : Nat) : Bool :=
  decide (b8zsWindow ≤ (BitVec.ofNat width n - BitVec.ofNat width cur).toNat)

end Sys2Proof.Machine
end

