-- ==== Sys2Proof/Machine/Manchester.lean ====
section
/-! DEFINITION. The loop bodies of the Manchester and Differential-Manchester encoders (43_manchester.md R84, R86). -/

namespace Sys2Proof.Machine

/-- Manchester: a 1 emits −1, +1; a 0 emits +1, −1 (R84). -/
def scanManchester (w : Work) : Work :=
  match w.readBit with
  | some .zero => ((w.emit .pos).emit .neg).advance 1
  | some .one => ((w.emit .neg).emit .pos).advance 1
  | none => w

/-- Differential-Manchester: a 0 inverts the reference first and emits reference, −reference; a 1 emits −reference,
reference and leaves the reference (R86). -/
def scanDifferentialManchester (w : Work) : Work :=
  match w.readBit with
  | some .zero =>
    (((w.setRef w.ref.opp).emit w.ref.opp.toLevel).emit w.ref.opp.toLevel.opp).advance 1
  | some .one => ((w.emit w.ref.toLevel.opp).emit w.ref.toLevel).advance 1
  | none => w

end Sys2Proof.Machine
end

