-- ==== Sys2Proof/Machine/Nrz.lean ====
section
/-! DEFINITION. The loop bodies of the NRZ-L and NRZ-I encoders (41_nrz.md R76, R78). -/

namespace Sys2Proof.Machine

/-- NRZ-L: 0 emits +1, 1 emits −1 (R76). -/
def scanNrzL (w : Work) : Work :=
  match w.readBit with
  | some .zero => (w.emit .pos).advance 1
  | some .one => (w.emit .neg).advance 1
  | none => w

/-- NRZ-I: a 1 inverts the level first; then the level is emitted (R78). -/
def scanNrzI (w : Work) : Work :=
  match w.readBit with
  | some .zero => (w.emit w.level.toLevel).advance 1
  | some .one => ((w.setLevel w.level.opp).emit w.level.opp.toLevel).advance 1
  | none => w

end Sys2Proof.Machine
end

