-- ==== Sys2Proof/Machine/Operands.lean ====
section
/-! DEFINITION. The one operand form, the candidate string: InputValidator and operand assembly (40_pipeline.md R64,
30_encoding.md R54, R55). -/

namespace Sys2Proof.Machine

/-- A character of the alphabet; every other is invalid, and nothing is trimmed (R54, R64). -/
def isBinaryChar (c : Char) : Bool := c == '0' || c == '1'

/-- `0` for the character '0' and `1` otherwise (R55, R64). -/
def bitOfChar (c : Char) : Bit := if c = '0' then .zero else .one

/-- `validate(In)`: succeeds exactly on a non-empty string of '0' and '1' (R64). -/
def validate (inp : List Char) : Except ErrorKind (List Bit) :=
  if inp.isEmpty then .error .invalidInput
  else if inp.all isBinaryChar then .ok (inp.map bitOfChar)
  else .error .invalidInput

end Sys2Proof.Machine
end

