-- ==== Sys2Proof/Machine/Pipeline.lean ====
section
/-! DEFINITION. The ENCODE pipeline: registry, the encoders' scan loop, SignalExpander, TimeAxisGenerator, assembler, and
the stages in their fixed order (40_pipeline.md R63 to R70, 10_state.md R27). -/

namespace Sys2Proof.Machine

/-- The registry's encoder: the loop body of `enc[s]` (R66). -/
def scanBody (sch : SchemeId) : Work → Work :=
  match sch with
  | .nrzL => scanNrzL
  | .nrzI => scanNrzI
  | .bipolarAmi => scanBipolarAmi
  | .pseudoternary => scanPseudoternary
  | .manchester => scanManchester
  | .differentialManchester => scanDifferentialManchester
  | .b8zs => scanB8zs

/-- The registry's expansion flag `expands[s]` (R66). -/
def expands (sch : SchemeId) : Bool :=
  match sch with
  | .nrzL => true
  | .nrzI => true
  | .bipolarAmi => true
  | .pseudoternary => true
  | .manchester => false
  | .differentialManchester => false
  | .b8zs => true

/-- The scan has bits left: `cur < n` (10_state.md R25). -/
def Work.bitsLeft (w : Work) : Bool := decide (w.cur < w.b.length)

/-- The encoders' loop: `while cur < n`, the body. The fuel bounds the number of steps; `n` is enough, because every
step advances `cur` (70_reset_and_hazards.md R117). -/
def scanLoop (body : Work → Work) (fuel : Nat) (w : Work) : Work :=
  match fuel with
  | 0 => w
  | k + 1 => if w.bitsLeft then scanLoop body k (body w) else w

/-- The selected encoder, run from where its cursor stands to the end of the bits. -/
def runScan (w : Work) : Work := scanLoop (scanBody w.scheme) w.b.length w

/-- SignalExpander: every raw level twice, in place (R67). -/
def expand (raw : List Level) : List Level := raw.flatMap (fun v => [v, v])

/-- The final samples: expanded for five schemes (R67), `Raw` itself for the two Manchester schemes (R68). -/
def signalOf (sch : SchemeId) (raw : List Level) : List Level := if expands sch then expand raw else raw

/-- TimeAxisGenerator: 0, 1, …, L−1 (R69). -/
def timeAxis (len : Nat) : List Nat := List.range len

/-- Assembler: the triple leaves as the response (R70). -/
def finishAssemble (w : Work) (s : State) : State :=
  s.unlessRaced w.raced (s.respond (.ok { sig := w.sig, tax := w.tax, bits := w.b }))

/-- The time axis, then what follows it. -/
def finishTimeAxis (w : Work) (s : State) : State :=
  finishAssemble (w.setTax (timeAxis w.sig.length)) s

/-- Expansion, then what follows it. -/
def finishExpand (w : Work) (s : State) : State :=
  finishTimeAxis (w.setSig (signalOf w.scheme w.raw)) s

/-- The encoder, then what follows it. -/
def finishEncode (w : Work) (s : State) : State := finishExpand (runScan w) s

/-- Validation, then what follows it; no encoder runs on a string that fails it (R65). -/
def finishValidate (w : Work) (s : State) : State :=
  match validate w.inp with
  | .error .invalidInput => s.unlessRaced w.raced s.raiseInvalidInput
  | .ok bits => finishEncode (w.setB bits) s

/-- The rest of a transaction, from the stage that comes next to its response (10_state.md R27). -/
def finishFrom (w : Work) (s : State) : State :=
  match w.stage with
  | .validate => finishValidate w s
  | .encode => finishEncode w s
  | .expand => finishExpand w s
  | .timeAxis => finishTimeAxis w s
  | .assemble => finishAssemble w s

/-- `transact(ENCODE s, In)` (R63): refuse what is longer than `N_MAX`, else capture and run every stage. -/
def encodeTransaction (sch : SchemeId) (inp : List Char) (s : State) : Host.Outcome State Fault Refusal :=
  if tooLong s.params inp then .refused .tooLong
  else .next (finishFrom (Work.capture sch inp) s)

end Sys2Proof.Machine
end

