-- ==== Sys2Proof/Machine/Encode.lean ====
section
/-! DEFINITION. The meanings of the seven ENCODE commands (40_pipeline.md R63 with the rule of each scheme). -/

namespace Sys2Proof.Machine

/-- ENCODE NRZ-L (41_nrz.md R76). -/
def execEncodeNrzL (inp : List Char) (s : State) : Host.Outcome State Fault Refusal :=
  encodeTransaction .nrzL inp s

/-- ENCODE NRZ-I (41_nrz.md R78). -/
def execEncodeNrzI (inp : List Char) (s : State) : Host.Outcome State Fault Refusal :=
  encodeTransaction .nrzI inp s

/-- ENCODE Bipolar-AMI (42_ami.md R80). -/
def execEncodeBipolarAmi (inp : List Char) (s : State) : Host.Outcome State Fault Refusal :=
  encodeTransaction .bipolarAmi inp s

/-- ENCODE Pseudoternary (42_ami.md R82). -/
def execEncodePseudoternary (inp : List Char) (s : State) : Host.Outcome State Fault Refusal :=
  encodeTransaction .pseudoternary inp s

/-- ENCODE Manchester (43_manchester.md R84). -/
def execEncodeManchester (inp : List Char) (s : State) : Host.Outcome State Fault Refusal :=
  encodeTransaction .manchester inp s

/-- ENCODE Differential-Manchester (43_manchester.md R86). -/
def execEncodeDifferentialManchester (inp : List Char) (s : State) : Host.Outcome State Fault Refusal :=
  encodeTransaction .differentialManchester inp s

/-- ENCODE B8ZS (44_b8zs.md R88). -/
def execEncodeB8zs (inp : List Char) (s : State) : Host.Outcome State Fault Refusal :=
  encodeTransaction .b8zs inp s

end Sys2Proof.Machine
end

