-- ==== Sys2Proof/Machine/Schemes.lean ====
section
/-! DEFINITION. The meaning of LIST_SCHEMES (40_pipeline.md R75). -/

namespace Sys2Proof.Machine

/-- LIST_SCHEMES: the scheme table is returned; no operand is read and no error can be raised (R75). -/
def execListSchemes (s : State) : Host.Outcome State Fault Refusal :=
  .next (s.respond (.schemeList s.schemeTable))

end Sys2Proof.Machine
end

