-- ==== Sys2Proof/Machine/Dispatch.lean ====
section
/-! DEFINITION. One arm per command, each one call of its meaning. -/

namespace Sys2Proof.Machine

def exec (i : Instr) (s : State) : Host.Outcome State Fault Refusal :=
  match i with
  | .encodeNrzL inp => Sys2Proof.Machine.execEncodeNrzL inp s
  | .encodeNrzI inp => Sys2Proof.Machine.execEncodeNrzI inp s
  | .encodeBipolarAmi inp => Sys2Proof.Machine.execEncodeBipolarAmi inp s
  | .encodePseudoternary inp => Sys2Proof.Machine.execEncodePseudoternary inp s
  | .encodeManchester inp => Sys2Proof.Machine.execEncodeManchester inp s
  | .encodeDifferentialManchester inp => Sys2Proof.Machine.execEncodeDifferentialManchester inp s
  | .encodeB8zs inp => Sys2Proof.Machine.execEncodeB8zs inp s
  | .listSchemes => Sys2Proof.Machine.execListSchemes s

end Sys2Proof.Machine
end

