-- ==== Sys2Proof/Machine/Fetch.lean ====
section
/-! DEFINITION. Which host action the block performs next, and the slot it is taken from (20_memory.md R45). -/

namespace Sys2Proof.Machine

/-- The oldest action the host has issued, and the state with it taken (R45). -/
def takeAction (s : State) : Option (HostAction × State) :=
  match s.issued with
  | [] => none
  | a :: rest => some (a, { s with issued := rest })

/-- The state with an action in the slot the next step takes from. -/
def placeAction (a : HostAction) (s : State) : State :=
  { s with issued := a :: s.issued.drop 1, work := none }

/-- The refusal of a word that does not decode (30_encoding.md R53). -/
def refusalOf (r : Reject) : Refusal :=
  match r with
  | .reservedCommand w => .reservedCommand w

end Sys2Proof.Machine
end

