-- ==== Sys2Proof/Machine/Realisation.lean ====
section
/-! DEFINITION. What may befall a transaction in a hardware realisation: a reset while it is in flight
(70_reset_and_hazards.md R111, U8), and a host that writes `In` between issue and response (R115, U7). What is in flight is
always an ENCODE (log entry 26). -/

namespace Sys2Proof.Machine

/-- A transaction whose candidate string was rewritten between its issue and its start: an ENCODE is answered with any
response (R115), and no length of an operand refuses it (log entry 27). LIST_SCHEMES reads no operand (40_pipeline.md
R75). -/
def racedTransaction (i : Instr) (s : State) : Host.Outcome State Fault Refusal :=
  match i.scheme? with
  | none => execListSchemes s
  | some sch => .next (finishFrom (Work.captureRaced sch) s)

/-- What happens to a block from outside, beside the transactions and resets it is issued. -/
inductive Disturbance where
  /-- A reset arrives while a transaction is in flight (R111). -/
  | resetInFlight
  /-- The host writes the `In` of the transaction in flight (R115). -/
  | hostWritesInput
  /-- The host writes the `In` of the transaction that is `k`-th, from 0, among those issued and not begun (R115). -/
  | hostWritesIssued (k : Nat)
  deriving DecidableEq, Repr

/-- An issued action once the host has rewritten the candidate string beside it. -/
def raceAction (a : HostAction) : HostAction :=
  match a with
  | .command w _ => .racedCommand w
  | .racedCommand w => .racedCommand w
  | .reset => .reset

/-- The issued actions once the host has rewritten the candidate string of the `k`-th. -/
def raceIssued (k : Nat) (as : List HostAction) : List HostAction :=
  match as, k with
  | [], _ => []
  | a :: rest, 0 => raceAction a :: rest
  | a :: rest, j + 1 => a :: raceIssued j rest

/-- The state after a disturbance. A reset leaves no response, no result and no partial result (R111). A write of `In`
from issue until the response has no effect where the operand was captured (20_memory.md R46). Elsewhere the transaction
goes on, to a response of which nothing is known (R115). -/
def disturb (capturesInput : Bool) (d : Disturbance) (s : State) : State :=
  match d with
  | .resetInFlight => s.resetBlock
  | .hostWritesInput =>
    match s.work with
    | none => s
    | some w => if capturesInput then s else s.withWork w.setRaced
  | .hostWritesIssued k => if capturesInput then s else { s with issued := raceIssued k s.issued }

end Sys2Proof.Machine
end

