-- ==== Sys2Proof/Machine/Step.lean ====
section
/-! DEFINITION. One step: one whole transaction, or one reset between transactions (00_scope.md R7, R17). -/

namespace Sys2Proof.Machine

/-- One step. Between transactions the block performs the oldest action issued; with none issued it stays as it is
(log entry 8). A transaction already in flight is brought to its response (log entry 10). -/
def step (s : State) : Host.Outcome State Fault Refusal :=
  match s.work with
  | some w => .next (finishFrom w s)
  | none =>
    match takeAction s with
    | none => .next s
    | some (.reset, s') => .next s'.resetBlock
    | some (.command w inp, s') =>
      match decode w inp with
      | .error r => .refused (refusalOf r)
      | .ok i => exec i s'
    | some (.racedCommand w, s') =>
      match decode w [] with
      | .error r => .refused (refusalOf r)
      | .ok i => racedTransaction i s'

/-- The state in which the next step performs the command whose table bits are `w`: the word stands in the slot the
step takes from, with the empty candidate string beside it, and no transaction is in flight (log entries 2, 15). -/
def State.withFetchWord (s : State) (_nbits w : Nat) : State := placeAction (.command (BitVec.ofNat 4 w) []) s

end Sys2Proof.Machine
end

