-- ==== Sys2Proof/Machine/Instances.lean ====
section
/-! DEFINITION. Any number of instances of the block, which share no state (60_exceptions.md R108, log entry 21). -/

namespace Sys2Proof.Machine

/-- One step of instance `k` of a list of instances; a number that names no instance changes nothing. -/
def stepInstance (k : Nat) (sys : List State) : Host.Outcome (List State) Fault Refusal :=
  match sys[k]? with
  | none => .next sys
  | some s =>
    match step s with
    | .next t => .next (sys.set k t)
    | .fault f => .fault f
    | .refused r => .refused r

end Sys2Proof.Machine
end

