-- ==== Sys2Proof/Machine/Text.lean ====
section
/-! DEFINITION. The text form of a command (30_encoding.md R61). There are no pseudo-instructions (R62). -/

namespace Sys2Proof.Machine

/-- The identifier of a scheme, spelled exactly as in 00_scope.md R2. -/
def schemeName (sch : SchemeId) : List Char :=
  match sch with
  | .nrzL => ['N', 'R', 'Z', '-', 'L']
  | .nrzI => ['N', 'R', 'Z', '-', 'I']
  | .bipolarAmi => ['B', 'i', 'p', 'o', 'l', 'a', 'r', '-', 'A', 'M', 'I']
  | .pseudoternary => ['P', 's', 'e', 'u', 'd', 'o', 't', 'e', 'r', 'n', 'a', 'r', 'y']
  | .manchester => ['M', 'a', 'n', 'c', 'h', 'e', 's', 't', 'e', 'r']
  | .differentialManchester =>
    ['D', 'i', 'f', 'f', 'e', 'r', 'e', 'n', 't', 'i', 'a', 'l', '-', 'M', 'a', 'n', 'c', 'h', 'e', 's', 't', 'e', 'r']
  | .b8zs => ['B', '8', 'Z', 'S']

/-- What stands before the operand's characters: `ENCODE <SchemeId>, "`. -/
def encodePrefix (sch : SchemeId) : List Char :=
  ['E', 'N', 'C', 'O', 'D', 'E', ' '] ++ schemeName sch ++ [',', ' ', '"']

/-- The text of a command: `ENCODE <SchemeId>, "<chars>"` or `LIST_SCHEMES` (R61). -/
def commandText (i : Instr) : List Char :=
  match i.scheme? with
  | some sch => encodePrefix sch ++ i.operand ++ ['"']
  | none => ['L', 'I', 'S', 'T', '_', 'S', 'C', 'H', 'E', 'M', 'E', 'S']

/-- What follows a prefix in a text, where it stands there. -/
def afterPrefix (pre text : List Char) : Option (List Char) :=
  match pre, text with
  | [], t => some t
  | _ :: _, [] => none
  | a :: pre', c :: text' => if a = c then afterPrefix pre' text' else none

/-- An operand closed by its last double quote; the characters before it are taken as they stand (log entry 19). -/
def closedOperand (text : List Char) : Option (List Char) :=
  if text.getLast? = some '"' then some text.dropLast else none

/-- The ENCODE of one scheme that a text spells, if it does. -/
def parseEncode (text : List Char) (sch : SchemeId) : Option Instr :=
  ((afterPrefix (encodePrefix sch) text).bind closedOperand).map (Instr.encodeOf sch)

/-- The command a text spells (R61). -/
def parseText (text : List Char) : Option Instr :=
  if text = ['L', 'I', 'S', 'T', '_', 'S', 'C', 'H', 'E', 'M', 'E', 'S'] then some .listSchemes
  else schemeTableConst.findSome? (parseEncode text)

end Sys2Proof.Machine
end

