-- ==== Sys2Proof/Machine/Flags.lean ====
section
/-! DEFINITION. The block has no flags or condition codes. Its only status is that of a response (10_state.md R29,
30_encoding.md R58). -/

namespace Sys2Proof.Machine

/-- The status of a response: OK, or INVALID_INPUT (R58). -/
inductive Status where
  | ok
  | invalidInput
  deriving DecidableEq, Repr

/-- The status a response carries (R58). -/
def statusOf (r : Response) : Status :=
  match r with
  | .ok _ => .ok
  | .schemeList _ => .ok
  | .err .invalidInput => .invalidInput

/-- The status code: 0 is OK, 1 is INVALID_INPUT (R58). -/
def statusCode (st : Status) : Nat :=
  match st with
  | .ok => 0
  | .invalidInput => 1

end Sys2Proof.Machine
end

