-- ==== Sys2Proof/Machine/Codes.lean ====
section
/-! DEFINITION. The codes a hardware realisation gives to the parts of a response, and their packing into wider words
(30_encoding.md R56 to R59, 20_memory.md R38, R43). -/

namespace Sys2Proof.Machine

/-- The 2-bit two's-complement code of a level (R56). -/
def levelCode (l : Level) : BitVec 2 :=
  match l with
  | .pos => 0b01#2
  | .zero => 0b00#2
  | .neg => 0b11#2

/-- The level of a code. What a reader makes of `0b10` is a free value (R56, U6, log entry 14). -/
def levelOfCode (c : BitVec 2) : Level :=
  match c.toNat with
  | 0 => .zero
  | 1 => .pos
  | 3 => .neg
  | _ => Config.strayLevel

/-- The 1-bit code of a bit (R57). -/
def bitCode (x : Bit) : BitVec 1 :=
  match x with
  | .zero => 0#1
  | .one => 1#1

/-- A time-axis value in its field, unsigned and `IDX_WIDTH` bits wide (R57). -/
def taxField (p : Params) (t : Nat) : Nat :=
  match p.idxWidth with
  | none => t
  | some w => (BitVec.ofNat w t).toNat

/-- A response in the codes of a realisation: the status, then the sequences that follow it (R58). -/
structure WireResponse where
  status : Nat
  sig : List (BitVec 2)
  tax : List Nat
  bits : List (BitVec 1)
  schemes : List (BitVec 3)
  deriving DecidableEq, Repr

/-- The codes of a response. Nothing follows the status of an error (R58). -/
def wireOf (p : Params) (r : Response) : WireResponse :=
  match r with
  | .ok e =>
    { status := statusCode (statusOf r), sig := e.sig.map levelCode, tax := e.tax.map (taxField p)
      bits := e.bits.map bitCode, schemes := [] }
  | .schemeList l =>
    { status := statusCode (statusOf r), sig := [], tax := [], bits := [], schemes := l.map codeOfScheme }
  | .err _ => { status := statusCode (statusOf r), sig := [], tax := [], bits := [], schemes := [] }

/-- One packed word of `width` bits: the elements of a group, element 0 lowest, and a free value in every bit above them
(R38, log entry 13). -/
def packWord (w width j : Nat) (group : List (BitVec w)) : BitVec width :=
  BitVec.ofNat width (group.foldr (fun x above => x.toNat + 2 ^ w * above) (Config.packFill j))

/-- A sequence of `w`-bit elements packed `e` to a word of `width` bits (R38). R38 gives the word no width, so it is an
argument; `e` elements need `w * e` bits, and a word may have spare bits above them. -/
def pack (w e width : Nat) (xs : List (BitVec w)) : List (BitVec width) :=
  (List.range ((xs.length + e - 1) / e)).map (fun j => packWord w width j ((xs.drop (j * e)).take e))

/-- Element `i` of a packed sequence: bits `w·(i mod e) + w − 1` to `w·(i mod e)` of word `⌊i / e⌋` (R38). -/
def packedElement (w e width : Nat) (words : List (BitVec width)) (i : Nat) : Option (BitVec w) :=
  (words[i / e]?).map (fun word => word.extractLsb' (w * (i % e)) w)

/-- The four sequences a realisation may place in memory shared with the host (R43). -/
inductive Buffer where
  | input
  | sig
  | tax
  | bits
  deriving DecidableEq, Repr

/-- Where an instance places a sequence; `none` where sequences are carried in the transaction (R43, D28). -/
def placementOf (p : Params) (buf : Buffer) : Option Nat :=
  p.bufMap.map (fun m =>
    match buf with
    | .input => m.inAt
    | .sig => m.sigAt
    | .tax => m.taxAt
    | .bits => m.bitsAt)

end Sys2Proof.Machine
end

