-- ==== Sys2Proof/Machine/Micro.lean ====
section
/-! DEFINITION. The inside of a transaction, one stage or one cursor step at a time: the pseudocode of 40_pipeline.md R63
with its working registers standing in the state. None of these points is observable (00_scope.md R7, 10_state.md R34,
log entry 11); `step` is the whole transaction. -/

namespace Sys2Proof.Machine

/-- The start of a transaction: the checks that come before validation (60_exceptions.md R100), then the capture of an
ENCODE. LIST_SCHEMES has no registers and is answered in this one micro step, so only an ENCODE is ever in flight and only
an ENCODE can be interrupted by a reset. DESIGN CHOICE (log entry 26): R111 speaks of a reset that interrupts a transaction
and does not say whether one can interrupt LIST_SCHEMES. -/
def microBegin (i : Instr) (s : State) : Host.Outcome State Fault Refusal :=
  match i.scheme? with
  | none => execListSchemes s
  | some sch =>
    if tooLong s.params i.operand then .refused .tooLong
    else .next (s.withWork (Work.capture sch i.operand))

/-- The start of a transaction whose candidate string was rewritten since it was issued (70_reset_and_hazards.md R115). -/
def microBeginRaced (i : Instr) (s : State) : Host.Outcome State Fault Refusal :=
  match i.scheme? with
  | none => execListSchemes s
  | some sch => .next (s.withWork (Work.captureRaced sch))

/-- One stage of the transaction in flight, or one step of its encoder's loop. -/
def microWork (w : Work) (s : State) : State :=
  match w.stage with
  | .validate =>
    match validate w.inp with
    | .error .invalidInput => s.unlessRaced w.raced s.raiseInvalidInput
    | .ok bits => s.withWork ((w.setB bits).setStage .encode)
  | .encode =>
    if w.bitsLeft then s.withWork (scanBody w.scheme w) else s.withWork (w.setStage .expand)
  | .expand => s.withWork ((w.setSig (signalOf w.scheme w.raw)).setStage .timeAxis)
  | .timeAxis => s.withWork ((w.setTax (timeAxis w.sig.length)).setStage .assemble)
  | .assemble => finishAssemble w s

/-- One micro step of the machine. -/
def microStep (s : State) : Host.Outcome State Fault Refusal :=
  match s.work with
  | some w => .next (microWork w s)
  | none =>
    match takeAction s with
    | none => .next s
    | some (.reset, s') => .next s'.resetBlock
    | some (.command w inp, s') =>
      match decode w inp with
      | .error r => .refused (refusalOf r)
      | .ok i => microBegin i s'
    | some (.racedCommand w, s') =>
      match decode w [] with
      | .error r => .refused (refusalOf r)
      | .ok i => microBeginRaced i s'

/-- `k` micro steps, stopping at a refusal. -/
def microRun (k : Nat) (s : State) : Host.Outcome State Fault Refusal :=
  match k with
  | 0 => .next s
  | k + 1 =>
    match microStep s with
    | .next s' => microRun k s'
    | .fault f => .fault f
    | .refused r => .refused r

end Sys2Proof.Machine
end

