-- ==== Sys2Proof/Safety.lean ====
section
/-! DEFINITION. What counts as a valid operand, a right result and a sound state, in the terms the statements use. The
encoders stand here a second time, as recursions over the bits with no cursor and no registers in a state, so that a
statement can say what the machine's loops compute. -/

namespace Sys2Proof.Safety

open Sys2Proof.Machine

/-- A valid candidate string: "non-empty and every character is `0` or `1`" (40_pipeline.md R64). -/
abbrev ValidInput (inp : List Char) : Prop := inp ≠ [] ∧ inp.all (fun c => c == '0' || c == '1') = true

/-- The operand is not longer than a finite `N_MAX` (00_scope.md R9). -/
abbrev Fits (p : Params) (inp : List Char) : Prop := p.nMax.all (fun n => decide (inp.length ≤ n)) = true

/-- `b[k]` is 0 where `In[k]` is '0' and 1 where it is '1' (30_encoding.md R55). -/
def bitsOf (inp : List Char) : List Bit := inp.map (fun c => if c = '0' then Bit.zero else Bit.one)

/-- NRZ-L (41_nrz.md R76). -/
def nrzLLevels (bits : List Bit) : List Level :=
  bits.map (fun x => match x with | .zero => Level.pos | .one => Level.neg)

/-- NRZ-I from a current level (R78). -/
def nrzILevels (level : Pol) (bits : List Bit) : List Level :=
  match bits with
  | [] => []
  | .zero :: rest => level.toLevel :: nrzILevels level rest
  | .one :: rest => level.opp.toLevel :: nrzILevels level.opp rest

/-- Bipolar-AMI from a polarity (42_ami.md R80). -/
def amiLevels (pol : Pol) (bits : List Bit) : List Level :=
  match bits with
  | [] => []
  | .zero :: rest => .zero :: amiLevels pol rest
  | .one :: rest => pol.toLevel :: amiLevels pol.opp rest

/-- Pseudoternary from a polarity (R82). -/
def ptLevels (pol : Pol) (bits : List Bit) : List Level :=
  match bits with
  | [] => []
  | .zero :: rest => pol.toLevel :: ptLevels pol.opp rest
  | .one :: rest => .zero :: ptLevels pol rest

/-- Manchester (43_manchester.md R84). -/
def manchesterLevels (bits : List Bit) : List Level :=
  bits.flatMap (fun x => match x with | .zero => [Level.pos, Level.neg] | .one => [Level.neg, Level.pos])

/-- Differential-Manchester from a reference level (R86). -/
def dmLevels (ref : Pol) (bits : List Bit) : List Level :=
  match bits with
  | [] => []
  | .zero :: rest => ref.opp.toLevel :: ref.opp.toLevel.opp :: dmLevels ref.opp rest
  | .one :: rest => ref.toLevel.opp :: ref.toLevel :: dmLevels ref rest

/-- B8ZS from a polarity: eight zeros ahead become a block and leave the polarity; else one bit as in AMI
(44_b8zs.md R88 to R92). -/
def b8zsLevels (pol : Pol) (bits : List Bit) : List Level :=
  match bits with
  | [] => []
  | .zero :: .zero :: .zero :: .zero :: .zero :: .zero :: .zero :: .zero :: rest =>
    [.zero, .zero, .zero, pol.toLevel.opp, .zero, pol.toLevel, pol.toLevel.opp, pol.toLevel] ++ b8zsLevels pol rest
  | .zero :: rest => .zero :: b8zsLevels pol rest
  | .one :: rest => pol.toLevel :: b8zsLevels pol.opp rest

/-- The samples of a scheme for some bits: levels doubled in place for five schemes, as they are for the two Manchester
schemes (40_pipeline.md R66 to R68), each from the initial value of 10_state.md R23. -/
def samples (sch : SchemeId) (bits : List Bit) : List Level :=
  match sch with
  | .nrzL => (nrzLLevels bits).flatMap (fun v => [v, v])
  | .nrzI => (nrzILevels .minus bits).flatMap (fun v => [v, v])
  | .bipolarAmi => (amiLevels .plus bits).flatMap (fun v => [v, v])
  | .pseudoternary => (ptLevels .plus bits).flatMap (fun v => [v, v])
  | .manchester => manchesterLevels bits
  | .differentialManchester => dmLevels .minus bits
  | .b8zs => (b8zsLevels .plus bits).flatMap (fun v => [v, v])

/-- The EncodingResult of a scheme for a candidate string (R69, R70). Its time axis is the spec's choice D7 (log entry 16). -/
def resultOf (sch : SchemeId) (inp : List Char) : EncodingResult :=
  { sig := samples sch (bitsOf inp), tax := List.range (2 * inp.length), bits := bitsOf inp }

/-- The state after a response: the response stands last in the host's list, no working register exists, and all else
is as it was (10_state.md R18, R33, R35). -/
def answered (s : State) (r : Response) : State :=
  { params := s.params, schemeTable := s.schemeTable, work := none, issued := s.issued
    responses := s.responses ++ [r] }

/-- A reserved command word: `0x7`, or `0x9` to `0xF` (30_encoding.md R53). -/
abbrev Reserved (w : CommandWord) : Prop := w = 0x7#4 ∨ 0x9#4 ≤ w

/-- The block as one pure function (00_scope.md R17): what a command, issued with an operand, is answered with. `none`
is a refusal. -/
def transact (p : Params) (w : CommandWord) (inp : List Char) : Option Response :=
  if w = 0x8#4 then some (.schemeList schemeTableConst)
  else
    match schemeTableConst[w.toNat]? with
    | none => none
    | some sch =>
      if ¬ Fits p inp then none
      else if ValidInput inp then some (.ok (resultOf sch inp))
      else some (.err .invalidInput)

/-- A response the block may return: a complete result of one of the seven schemes for a valid string, the whole scheme
table, or the error (20_memory.md R40). The time axis of a result is the spec's choice D7 (log entry 16). -/
def SoundResponse (p : Params) (r : Response) : Prop :=
  match r with
  | .ok e => ∃ sch inp, ValidInput inp ∧ Fits p inp ∧ e = resultOf sch inp
  | .schemeList l => l = schemeTableConst
  | .err _ => True

/-- No candidate string has been rewritten since it was issued: the host's first duty, premise P-host
(70_reset_and_hazards.md R119, R120). -/
def NoRace (s : State) : Prop :=
  (∀ a ∈ s.issued, ∀ w, a ≠ .racedCommand w) ∧ ∀ w, s.work = some w → w.raced = false

/-- The machine's invariant between transactions: admissible parameters, the constant table, no transaction in flight, a
host that keeps its duty, and only sound responses returned. -/
def Inv (s : State) : Prop :=
  s.params.wf = true ∧ s.schemeTable = schemeTableConst ∧ s.work = none ∧ NoRace s ∧
    ∀ r ∈ s.responses, SoundResponse s.params r

/-- Raw levels per bit: 2 for the two Manchester schemes, 1 for the others (40_pipeline.md R66). -/
def levelsPerBit (sch : SchemeId) : Nat :=
  match sch with
  | .manchester => 2
  | .differentialManchester => 2
  | _ => 1

/-- The scan is over: the cursor stands at `n` and `Raw` holds the levels of all the bits (10_state.md R25, R32). -/
def ScanOver (w : Work) : Prop :=
  ValidInput w.inp ∧ w.b = bitsOf w.inp ∧ w.cur = w.b.length ∧ w.raw.length = levelsPerBit w.scheme * w.b.length

/-- The invariant of a transaction in flight, stage by stage: the cursor never passes `n` (10_state.md R25), `Raw` holds
the levels of the bits consumed, and each sequence has its full length once its stage is over (40_pipeline.md R71). The
time axis is the spec's choice D7 (R69, log entry 16). -/
def WorkInv (w : Work) : Prop :=
  match w.stage with
  | .validate => w = Work.capture w.scheme w.inp
  | .encode =>
    ValidInput w.inp ∧ w.b = bitsOf w.inp ∧ w.cur ≤ w.b.length ∧ w.raw.length = levelsPerBit w.scheme * w.cur
  | .expand => ScanOver w
  | .timeAxis => ScanOver w ∧ w.sig.length = 2 * w.b.length
  | .assemble => ScanOver w ∧ w.sig.length = 2 * w.b.length ∧ w.tax = List.range (2 * w.b.length)

/-- A response of the right shape: a result is non-empty, with two samples and two time values a bit (R71). The
time axis is the spec's choice D7 (R69, log entry 16). -/
def ShapedResponse (r : Response) : Prop :=
  match r with
  | .ok e => e.bits ≠ [] ∧ e.sig.length = 2 * e.bits.length ∧ e.tax = List.range (2 * e.bits.length)
  | .schemeList l => l = schemeTableConst
  | .err _ => True

/-- The invariant of every micro step, inside a transaction and between two. -/
def MicroInv (s : State) : Prop :=
  s.schemeTable = schemeTableConst ∧ NoRace s ∧ (∀ w, s.work = some w → WorkInv w) ∧
    ∀ r ∈ s.responses, ShapedResponse r

/-- The number of micro steps that end a transaction, at most: the capture, the validation, one step a bit, and the end
of the loop, expansion, time axis and assembly (70_reset_and_hazards.md R117). -/
def microBound (s : State) : Nat :=
  match s.work with
  | some w => w.inp.length + w.b.length + 5
  | none =>
    match s.issued with
    | .command _ inp :: _ => inp.length + 6
    | .racedCommand _ :: _ => 2
    | _ => 1

/-- +1 for an even count and −1 for an odd one, `(−1)^j`. -/
def alternating (j : Nat) : Level := if j % 2 = 0 then .pos else .neg

end Sys2Proof.Safety
end

