-- ==== Sys2Proof/Certificates/Slice0/Obligations.lean ====
section
/-! DEFINITION. The statements about the machine, each a proposition with the rule of the spec it rests on. -/

open Sys2Proof Sys2Proof.Machine Sys2Proof.Safety

/-! ## Decoding -/

/-- 30_encoding.md R52: what each of the sixteen command words decodes to. -/
def Obligations.CommandWordsDecode : Prop :=
  ∀ inp : List Char,
    decode 0x0#4 inp = .ok (.encodeNrzL inp) ∧ decode 0x1#4 inp = .ok (.encodeNrzI inp) ∧
    decode 0x2#4 inp = .ok (.encodeBipolarAmi inp) ∧ decode 0x3#4 inp = .ok (.encodePseudoternary inp) ∧
    decode 0x4#4 inp = .ok (.encodeManchester inp) ∧ decode 0x5#4 inp = .ok (.encodeDifferentialManchester inp) ∧
    decode 0x6#4 inp = .ok (.encodeB8zs inp) ∧ decode 0x8#4 inp = .ok .listSchemes ∧
    ∀ w : CommandWord, w = 0x7#4 ∨ 0x9#4 ≤ w → decode w inp = .error (.reservedCommand w)

/-- 30_encoding.md R53: a transaction with a reserved word is refused, whatever its operand. -/
def Obligations.ReservedWordsAreRefused : Prop :=
  ∀ (s : State) (w : CommandWord) (inp : List Char) (rest : List HostAction),
    s.work = none → s.issued = .command w inp :: rest → w = 0x7#4 ∨ 0x9#4 ≤ w →
      step s = .refused (.reservedCommand w)

/-- A step performs the decoded command (20_memory.md §7, 30_encoding.md §2): between transactions, the command at the
head of the issued actions is taken and executed. -/
def Obligations.StepRunsDecodedCommand : Prop :=
  ∀ (s : State) (w : CommandWord) (inp : List Char) (rest : List HostAction) (i : Instr),
    s.work = none → s.issued = .command w inp :: rest → decode w inp = .ok i →
      step s = exec i { s with issued := rest }

/-- The step around exec where there is no command to run. With nothing issued the state stays (the model's choice, log
entry 8); a transaction in flight is finished, leaving what is issued (the model's choice, log entry 10). -/
def Obligations.StepWithoutCommand : Prop :=
  (∀ s : State, s.work = none → s.issued = [] → step s = .next s) ∧
  ∀ s : State, s.work ≠ none → ∃ r, step s = .next (answered s r)

/-- 95_test_vectors.md §3 with 30_encoding.md §2 and §4: every command that has a byte encoding is read back from its
word and its operand bytes, with every character of its operand. -/
def Obligations.ByteEncodingRoundTrip : Prop :=
  ∀ i : Instr, i.wf = true → decodeBytes (encode i).1 (encode i).2 = .ok i

/-- 30_encoding.md §2: one word per command. A word that decodes is the word of its command, and the operand of an
ENCODE is kept. -/
def Obligations.DecodedWordIsEncodedWord : Prop :=
  ∀ (w : CommandWord) (inp : List Char) (i : Instr),
    decode w inp = .ok i → encodeWord i = w ∧ (i = .listSchemes ∨ i.operand = inp)

/-- 30_encoding.md §4: '0' is byte 0x30, '1' is byte 0x31, and every other byte is an invalid character. The two codes
are general knowledge by the spec's own mark (log entry 5). -/
def Obligations.OnlyDigitBytesAreValid : Prop :=
  byteOfChar '0' = 0x30#8 ∧ byteOfChar '1' = 0x31#8 ∧
    ∀ x : Byte, (∃ bits, validate [charOfByte x] = .ok bits) ↔ x = 0x30#8 ∨ x = 0x31#8

/-- 30_encoding.md §7: the text of a command is read back as that command, with any characters in its operand. Reading
text is the model's (log entry 19). -/
def Obligations.TextRoundTrip : Prop :=
  ∀ i : Instr, parseText (commandText i) = some i

/-! ## The eight commands

Each ENCODE statement says the whole response. Its time axis, Tax[i] = i, is the choice of 40_pipeline.md §5
(92_eei_decisions.md D7, log entry 16), and no rule is cited for that part. -/

/-- 41_nrz.md R76: NRZ-L, from its command word to its response.
The time axis in it is the spec's choice D7 (log entry 16). -/
def Obligations.NrzLEncodes : Prop :=
  ∀ (s : State) (inp : List Char), ValidInput inp → Fits s.params inp →
    decode 0x0#4 inp = .ok (.encodeNrzL inp) ∧
    exec (.encodeNrzL inp) s = .next (answered s (.ok
      { sig := (nrzLLevels (bitsOf inp)).flatMap (fun v => [v, v])
        tax := List.range (2 * inp.length), bits := bitsOf inp }))

/-- 41_nrz.md R78: NRZ-I, from its command word to its response.
The time axis in it is the spec's choice D7 (log entry 16). -/
def Obligations.NrzIEncodes : Prop :=
  ∀ (s : State) (inp : List Char), ValidInput inp → Fits s.params inp →
    decode 0x1#4 inp = .ok (.encodeNrzI inp) ∧
    exec (.encodeNrzI inp) s = .next (answered s (.ok
      { sig := (nrzILevels .minus (bitsOf inp)).flatMap (fun v => [v, v])
        tax := List.range (2 * inp.length), bits := bitsOf inp }))

/-- 42_ami.md R80: Bipolar-AMI, from its command word to its response.
The time axis in it is the spec's choice D7 (log entry 16). -/
def Obligations.BipolarAmiEncodes : Prop :=
  ∀ (s : State) (inp : List Char), ValidInput inp → Fits s.params inp →
    decode 0x2#4 inp = .ok (.encodeBipolarAmi inp) ∧
    exec (.encodeBipolarAmi inp) s = .next (answered s (.ok
      { sig := (amiLevels .plus (bitsOf inp)).flatMap (fun v => [v, v])
        tax := List.range (2 * inp.length), bits := bitsOf inp }))

/-- 42_ami.md R82: Pseudoternary, from its command word to its response.
The time axis in it is the spec's choice D7 (log entry 16). -/
def Obligations.PseudoternaryEncodes : Prop :=
  ∀ (s : State) (inp : List Char), ValidInput inp → Fits s.params inp →
    decode 0x3#4 inp = .ok (.encodePseudoternary inp) ∧
    exec (.encodePseudoternary inp) s = .next (answered s (.ok
      { sig := (ptLevels .plus (bitsOf inp)).flatMap (fun v => [v, v])
        tax := List.range (2 * inp.length), bits := bitsOf inp }))

/-- 43_manchester.md R84: Manchester, from its command word to its response; nothing is expanded.
The time axis in it is the spec's choice D7 (log entry 16). -/
def Obligations.ManchesterEncodes : Prop :=
  ∀ (s : State) (inp : List Char), ValidInput inp → Fits s.params inp →
    decode 0x4#4 inp = .ok (.encodeManchester inp) ∧
    exec (.encodeManchester inp) s = .next (answered s (.ok
      { sig := manchesterLevels (bitsOf inp)
        tax := List.range (2 * inp.length), bits := bitsOf inp }))

/-- 43_manchester.md R86: Differential-Manchester, from its command word to its response; nothing is expanded.
The time axis in it is the spec's choice D7 (log entry 16). -/
def Obligations.DifferentialManchesterEncodes : Prop :=
  ∀ (s : State) (inp : List Char), ValidInput inp → Fits s.params inp →
    decode 0x5#4 inp = .ok (.encodeDifferentialManchester inp) ∧
    exec (.encodeDifferentialManchester inp) s = .next (answered s (.ok
      { sig := dmLevels .minus (bitsOf inp)
        tax := List.range (2 * inp.length), bits := bitsOf inp }))

/-- 44_b8zs.md R88, R90, R92: B8ZS, from its command word to its response.
The time axis in it is the spec's choice D7 (log entry 16). -/
def Obligations.B8zsEncodes : Prop :=
  ∀ (s : State) (inp : List Char), ValidInput inp → Fits s.params inp →
    decode 0x6#4 inp = .ok (.encodeB8zs inp) ∧
    exec (.encodeB8zs inp) s = .next (answered s (.ok
      { sig := (b8zsLevels .plus (bitsOf inp)).flatMap (fun v => [v, v])
        tax := List.range (2 * inp.length), bits := bitsOf inp }))

/-- 40_pipeline.md R75: LIST_SCHEMES returns the seven identifiers in order, whatever stands beside its word. The
premise is the constant table, which SchemeTableIsConstant says every step keeps. -/
def Obligations.ListSchemesReturnsTable : Prop :=
  ∀ (s : State) (inp : List Char), s.schemeTable = schemeTableConst →
    decode 0x8#4 inp = .ok .listSchemes ∧
    exec .listSchemes s = .next (answered s (.schemeList
      [.nrzL, .nrzI, .bipolarAmi, .pseudoternary, .manchester, .differentialManchester, .b8zs])) ∧
    wireOf s.params (.schemeList
      [.nrzL, .nrzI, .bipolarAmi, .pseudoternary, .manchester, .differentialManchester, .b8zs]) =
        { status := 0, sig := [], tax := [], bits := [], schemes := [0#3, 1#3, 2#3, 3#3, 4#3, 5#3, 6#3] }

/-! ## Errors, refusals and the order of the checks -/

/-- 40_pipeline.md R64: validation succeeds exactly on a non-empty string of '0' and '1', with its bits; on every other
it signals the input error. -/
def Obligations.ValidationIsExact : Prop :=
  ∀ inp : List Char,
    (ValidInput inp → validate inp = .ok (bitsOf inp)) ∧ (¬ ValidInput inp → validate inp = .error .invalidInput)

/-- 60_exceptions.md R96: the response to an invalid string is the error under every scheme, and nothing else leaves the
transaction or changes; the next transaction is answered as though this one had not happened. No encoder runs: the micro
step of the validation ends the transaction, unless the operand was rewritten under it. The micro steps are the model's
(log entry 11). -/
def Obligations.InvalidInputAnswersError : Prop :=
  ∀ (s : State) (sch : SchemeId) (inp : List Char), Fits s.params inp → ¬ ValidInput inp →
    exec (Instr.encodeOf sch inp) s = .next (answered s (.err .invalidInput)) ∧
    (∀ (i : Instr) (t : State) (r : Response), exec i s = .next t → t.responses = s.responses ++ [r] →
      exec i (answered s (.err .invalidInput)) = .next (answered (answered s (.err .invalidInput)) r)) ∧
    ∀ w : Work, w.stage = .validate → w.inp = inp → w.raced = false →
      microWork w s = answered s (.err .invalidInput)

/-- 60_exceptions.md §1: only an ENCODE of an invalid string is answered with the error. -/
def Obligations.ErrorOnlyForInvalidInput : Prop :=
  ∀ (s t : State) (i : Instr) (k : ErrorKind),
    exec i s = .next t → t.responses = s.responses ++ [.err k] →
      ∃ sch inp, i = Instr.encodeOf sch inp ∧ ¬ ValidInput inp

/-- 00_scope.md R9: with a finite N_MAX a longer operand is refused, valid or not; with an unbounded one every string of
length at least 1 is admitted. -/
def Obligations.OperandLengthBound : Prop :=
  ∀ (s : State) (sch : SchemeId) (inp : List Char),
    (∀ n, s.params.nMax = some n → n < inp.length →
      exec (Instr.encodeOf sch inp) s = .refused .tooLong) ∧
    (s.params.nMax = none → 1 ≤ inp.length →
      ∃ r, exec (Instr.encodeOf sch inp) s = .next (answered s r))

/-- 60_exceptions.md R100: the checks in their order, the first that applies deciding the outcome. -/
def Obligations.ChecksInOrder : Prop :=
  ∀ (s : State) (w : CommandWord) (inp : List Char) (rest : List HostAction),
    s.work = none → s.issued = .command w inp :: rest →
      (Reserved w → step s = .refused (.reservedCommand w)) ∧
      (w ≤ 0x6#4 → ¬ Fits s.params inp → step s = .refused .tooLong) ∧
      (w ≤ 0x6#4 → Fits s.params inp → ¬ ValidInput inp →
        step s = .next (answered { s with issued := rest } (.err .invalidInput))) ∧
      (w ≤ 0x6#4 → Fits s.params inp → ValidInput inp →
        ∃ e, step s = .next (answered { s with issued := rest } (.ok e)))

/-! ## What a command leaves unchanged, and what its response depends on -/

/-- 10_state.md §1, 20_memory.md §4: the frame of all eight commands. Parameters, scheme table and issued actions are
unchanged, no working register is left, the earlier responses stand as they were, and exactly one response is added, which
is sound. The time axis of a sound result is the spec's choice D7 (40_pipeline.md §5, log entry 16). The premise is the
constant table. -/
def Obligations.CommandFrame : Prop :=
  ∀ (s t : State) (i : Instr), s.schemeTable = schemeTableConst → exec i s = .next t →
    t.params = s.params ∧ t.schemeTable = s.schemeTable ∧ t.issued = s.issued ∧ t.work = none ∧
    ∃ r, t.responses = s.responses ++ [r] ∧ SoundResponse s.params r

/-- 10_state.md R19: the table, its order against the scheme codes, and that no step, command or reset, changes it. -/
def Obligations.SchemeTableIsConstant : Prop :=
  State.reset.schemeTable =
    [.nrzL, .nrzI, .bipolarAmi, .pseudoternary, .manchester, .differentialManchester, .b8zs] ∧
  (∀ i < 7, (State.reset.schemeTable[i]?).map codeOfScheme = some (BitVec.ofNat 3 i)) ∧
  (∀ s t : State, step s = .next t → t.schemeTable = s.schemeTable) ∧
  (∀ s : State, s.resetBlock.schemeTable = s.schemeTable) ∧
  ∀ s : State, exec .listSchemes s = .next (answered s (.schemeList s.schemeTable))

/-- 10_state.md R18: nothing mutable outlives a transaction, and the response is a function of the command and the
operand alone. Two machines of equal N_MAX and equal table, whatever their registers, their histories and what else was
issued, answer a command alike. -/
def Obligations.ResponseDependsOnlyOnCommand : Prop :=
  ∀ (s s' t : State) (i : Instr), s.params.nMax = s'.params.nMax → s.schemeTable = s'.schemeTable →
    exec i s = .next t →
      ∃ r, t = answered s r ∧ exec i s' = .next (answered s' r)

/-- 10_state.md §8: the same transaction issued twice is answered twice with the same response. -/
def Obligations.EncodingTwiceIsIdentical : Prop :=
  ∀ (s t : State) (w : CommandWord) (inp : List Char) (rest : List HostAction),
    s.work = none → s.issued = .command w inp :: .command w inp :: rest → step s = .next t →
      ∃ r u, step t = .next u ∧ u.responses = s.responses ++ [r, r] ∧ u.issued = rest

/-- 10_state.md R35: at the start of every ENCODE the working registers hold their initial values, whatever came before;
none exists once a step has ended; and reset has nothing to set. The registers are seen through a micro step, which is the
model's (log entry 11). -/
def Obligations.RegistersStartFresh : Prop :=
  (∀ (s : State) (sch : SchemeId) (inp : List Char) (rest : List HostAction),
    s.work = none → s.issued = .command (0#1 ++ codeOfScheme sch) inp :: rest → Fits s.params inp →
      ∃ w, microStep s = .next { s with issued := rest, work := some w } ∧ w.scheme = sch ∧ w.inp = inp ∧
        w.cur = 0 ∧ w.level = .minus ∧ w.polAmi = .plus ∧ w.polPt = .plus ∧ w.ref = .minus ∧ w.polB8zs = .plus ∧
        w.raw = [] ∧ w.raced = false) ∧
  (∀ s t : State, step s = .next t → t.work = none) ∧
  ∀ s : State, s.work = none → s.resetBlock = s

/-! ## Reset and the invariants -/

/-- 70_reset_and_hazards.md R111 and 10_state.md §9: what reset leaves. The parameters are the spec's model defaults
(log entry 3), and nothing is issued (log entry 7). -/
def Obligations.ResetLeavesOnlyTheTable : Prop :=
  State.reset.work = none ∧ State.reset.responses = [] ∧ State.reset.issued = [] ∧
  State.reset.schemeTable = schemeTableConst ∧ State.reset.params.nMax = none ∧
  State.reset.params.idxWidth = none ∧ State.reset.params.bufMap = none

/-- The machine after reset meets the invariant. -/
def Obligations.ResetMeetsInvariant : Prop := Inv State.reset

/-- Every step keeps the invariant: from any state that meets it, only complete and right results are ever surfaced
(20_memory.md §4, 60_exceptions.md §1), the table stays and no register outlives its transaction. The invariant holds the
host to its duty, premise P-host (70_reset_and_hazards.md §5). The time axis of a right result is the spec's choice D7
(40_pipeline.md §5, log entry 16). -/
def Obligations.StepKeepsInvariant : Prop :=
  ∀ s t : State, Inv s → step s = .next t → Inv t

/-- The machine after reset meets the invariant of micro steps. -/
def Obligations.ResetMeetsMicroInvariant : Prop := MicroInv State.reset

/-- Every micro step keeps its invariant: the cursor never exceeds n and every sequence has the length its stage says
(10_state.md §4, 40_pipeline.md §7), where the host keeps its duty. The time axis it demands is
the spec's choice D7 (40_pipeline.md §5, log entry 16), and the micro steps are the model's (log entry 11). -/
def Obligations.MicroStepKeepsInvariant : Prop :=
  ∀ s t : State, MicroInv s → microStep s = .next t → MicroInv t

/-- A step is what its micro steps come to: wherever a step answers, a bounded number of micro steps reach the same
state, and where it refuses, the first micro step refuses (00_scope.md §3, 70_reset_and_hazards.md §4). -/
def Obligations.MicroStepsReachStep : Prop :=
  (∀ s t : State, step s = .next t → ∃ k, k ≤ microBound s ∧ microRun k s = .next t) ∧
  ∀ (s : State) (r : Refusal), step s = .refused r → microStep s = .refused r

/-- A sequence of transactions is answered in issue order, each as the pure function of its command and operand
(20_memory.md §7, 70_reset_and_hazards.md §5, 00_scope.md §5), for every sequence none of whose transactions is
refused. The time axis in the results is the spec's choice D7 (log entry 16). -/
def Obligations.TransactionsAnswerInOrder : Prop :=
  ∀ (s : State) (txs : List (CommandWord × List Char)) (rs : List Response),
    s.work = none → s.schemeTable = schemeTableConst →
    s.issued = txs.map (fun x => HostAction.command x.1 x.2) →
    txs.map (fun x => transact s.params x.1 x.2) = rs.map some →
      Host.Core.run core txs.length s = .next { s with issued := [], responses := s.responses ++ rs }

/-- 70_reset_and_hazards.md §1: a reset between transactions only leaves the list of what is issued; the block is as it
was. -/
def Obligations.ResetBetweenChangesNothing : Prop :=
  ∀ (s : State) (rest : List HostAction), s.work = none → s.issued = .reset :: rest →
    step s = .next { s with issued := rest }

/-- 70_reset_and_hazards.md §1: a reset inside a transaction, in a realisation that allows one, gives no response and
leaves nothing of the transaction, at whatever micro step it arrives; issued again, the transaction is answered as it
would have been. The transaction in flight is an ENCODE: that LIST_SCHEMES is never in flight is the model's choice (log
entry 26). -/
def Obligations.ResetInFlightLeavesNothing : Prop :=
  ∀ (s t u : State) (w : CommandWord) (inp : List Char) (rest : List HostAction) (k : Nat) (captures : Bool),
    s.work = none → s.issued = .command w inp :: rest → microRun (k + 1) s = .next t → t.work ≠ none →
    t.issued = rest → t.responses = s.responses → step s = .next u →
      disturb captures .resetInFlight t = { s with issued := rest } ∧
      step { disturb captures .resetInFlight t with issued := .command w inp :: rest } = .next u

/-- 20_memory.md §7 and 70_reset_and_hazards.md §3: a host's write of `In`, from issue until the response. Where the
operand was captured it changes nothing. Where it was not, the transaction, in flight or next to begin, is answered with a
response of which nothing is known (log entry 12), and a reset that interrupts it still takes that response away.
LIST_SCHEMES and the reserved words read no operand, so the write changes nothing for them. -/
def Obligations.HostWriteDuringTransaction : Prop :=
  (∀ (s : State) (k : Nat), disturb true .hostWritesInput s = s ∧ disturb true (.hostWritesIssued k) s = s) ∧
  (∀ (s : State) (captures : Bool), s.work ≠ none →
    step (disturb false .hostWritesInput s) = .next (answered s (Config.racedResponse s.responses.length)) ∧
    disturb captures .resetInFlight (disturb false .hostWritesInput s) = { s with work := none }) ∧
  ∀ (s : State) (w : CommandWord) (inp : List Char) (rest : List HostAction),
    s.work = none → s.issued = .command w inp :: rest →
      (w ≤ 0x6#4 → step (disturb false (.hostWritesIssued 0) s) =
        .next (answered { s with issued := rest } (Config.racedResponse s.responses.length))) ∧
      (¬ w ≤ 0x6#4 → step (disturb false (.hostWritesIssued 0) s) = step s)

/-- 20_memory.md §7 and 70_reset_and_hazards.md §3: a host's write of the `In` of a transaction that waits behind another
leaves the transactions before it as they are. Where the first of them is answered, the write might as well have come
after its response. -/
def Obligations.HostWriteRacesOnlyItsTransaction : Prop :=
  ∀ (s t : State) (captures : Bool) (a : HostAction) (rest : List HostAction) (k : Nat),
    s.work = none → s.issued = a :: rest → step s = .next t →
      step (disturb captures (.hostWritesIssued (k + 1)) s) = .next (disturb captures (.hostWritesIssued k) t)

/-! ## Closed forms the spec derives from its encoder rules -/

/-- 41_nrz.md §1, the closed form of NRZ-L: both samples of bit k are 1 − 2·b[k]. -/
def Obligations.NrzLClosedForm : Prop :=
  ∀ (s : State) (inp : List Char), ValidInput inp → Fits s.params inp →
    ∃ e, exec (.encodeNrzL inp) s = .next (answered s (.ok e)) ∧ e.sig.length = 2 * inp.length ∧
      ∀ k x, (bitsOf inp)[k]? = some x →
        (e.sig[2 * k]?).map Level.toInt = some (1 - 2 * (x.toNat : Int)) ∧ e.sig[2 * k + 1]? = e.sig[2 * k]?

/-- 41_nrz.md §2, the closed form of NRZ-I: −1 or +1 by the parity of the 1s up to and with bit k. -/
def Obligations.NrzIClosedForm : Prop :=
  ∀ (s : State) (inp : List Char), ValidInput inp → Fits s.params inp →
    ∃ e, exec (.encodeNrzI inp) s = .next (answered s (.ok e)) ∧
      ∀ k, k < inp.length →
        e.sig[2 * k]? = some (alternating ((inp.take (k + 1)).count '1')).opp ∧
        e.sig[2 * k + 1]? = some (alternating ((inp.take (k + 1)).count '1')).opp

/-- 42_ami.md §1, the closed form of Bipolar-AMI: 0 for a 0, and the j-th 1 alternates from +1. -/
def Obligations.BipolarAmiClosedForm : Prop :=
  ∀ (s : State) (inp : List Char), ValidInput inp → Fits s.params inp →
    ∃ e, exec (.encodeBipolarAmi inp) s = .next (answered s (.ok e)) ∧
      ∀ k, k < inp.length →
        e.sig[2 * k]? = some (if inp[k]? = some '0' then .zero else alternating ((inp.take k).count '1')) ∧
        e.sig[2 * k + 1]? = e.sig[2 * k]?

/-- 42_ami.md §1: Bipolar-AMI holds no bipolar violation. Two pulses with only 0s between them differ in sign. -/
def Obligations.BipolarAmiHasNoViolation : Prop :=
  ∀ (s : State) (inp : List Char), ValidInput inp → Fits s.params inp →
    ∃ e, exec (.encodeBipolarAmi inp) s = .next (answered s (.ok e)) ∧
      ∀ j k v w, j < k → e.sig[2 * j]? = some v → e.sig[2 * k]? = some w → v ≠ .zero → w ≠ .zero →
        (∀ m, j < m → m < k → e.sig[2 * m]? = some .zero) → w = v.opp

/-- 42_ami.md §2, the closed form of Pseudoternary: it is Bipolar-AMI of the flipped bits. -/
def Obligations.PseudoternaryIsAmiOfFlippedBits : Prop :=
  ∀ (s : State) (inp inp' : List Char), ValidInput inp → ValidInput inp' → Fits s.params inp →
    bitsOf inp' = (bitsOf inp).map Bit.flip →
      ∃ e e', exec (.encodePseudoternary inp) s = .next (answered s (.ok e)) ∧
        exec (.encodeBipolarAmi inp') s = .next (answered s (.ok e')) ∧ e.sig = e'.sig

/-- 43_manchester.md §1, the closed form of Manchester, its mid-bit transition and its boundaries. -/
def Obligations.ManchesterClosedForm : Prop :=
  ∀ (s : State) (inp : List Char), ValidInput inp → Fits s.params inp →
    ∃ e, exec (.encodeManchester inp) s = .next (answered s (.ok e)) ∧
      (∀ k x, (bitsOf inp)[k]? = some x →
        (e.sig[2 * k]?).map Level.toInt = some (1 - 2 * (x.toNat : Int)) ∧
        (e.sig[2 * k + 1]?).map Level.toInt = some (2 * (x.toNat : Int) - 1)) ∧
      ∀ k, k + 1 < inp.length →
        (e.sig[2 * k + 1]? ≠ e.sig[2 * k + 2]? ↔ (bitsOf inp)[k]? = (bitsOf inp)[k + 1]?)

/-- 43_manchester.md §2, the closed form of Differential-Manchester: with r_k = −(−1)^z(k), z(k) the 0s before bit k,
bit k emits (−r_k, r_k), and there is a transition after bit k exactly when it is a 1 (90_conflicts.md C1). -/
def Obligations.DifferentialManchesterClosedForm : Prop :=
  ∀ (s : State) (inp : List Char), ValidInput inp → Fits s.params inp →
    ∃ e, exec (.encodeDifferentialManchester inp) s = .next (answered s (.ok e)) ∧
      (∀ k, k < inp.length →
        e.sig[2 * k]? = some (alternating ((inp.take k).count '0')) ∧
        e.sig[2 * k + 1]? = some (alternating ((inp.take k).count '0')).opp) ∧
      ∀ k, k + 1 < inp.length → (e.sig[2 * k + 1]? ≠ e.sig[2 * k + 2]? ↔ inp[k]? = some '1')

/-- 43_manchester.md §2, item 4: the last bit's value does not show in the signal. -/
def Obligations.DifferentialManchesterHidesLastBit : Prop :=
  ∀ (s : State) (pre : List Char), (∀ c ∈ pre, c = '0' ∨ c = '1') → Fits s.params (pre ++ ['0']) →
    ∃ e e', exec (.encodeDifferentialManchester (pre ++ ['0'])) s = .next (answered s (.ok e)) ∧
      exec (.encodeDifferentialManchester (pre ++ ['1'])) s = .next (answered s (.ok e')) ∧ e.sig = e'.sig

/-- 44_b8zs.md §6, items 3 and 5: the 1 at bit k is a pulse whose sign is the parity of the 1s before it; blocks between
do not count. -/
def Obligations.B8zsOnesAlternate : Prop :=
  ∀ (s : State) (inp : List Char), ValidInput inp → Fits s.params inp →
    ∃ e, exec (.encodeB8zs inp) s = .next (answered s (.ok e)) ∧
      ∀ k, inp[k]? = some '1' → e.sig[2 * k]? = some (alternating ((inp.take k).count '1'))

/-- 44_b8zs.md §5: a maximal run of L zeros becomes ⌊L/8⌋ blocks from its start, each of the pattern for the polarity
before the run, and then L mod 8 zeros. -/
def Obligations.B8zsZeroRun : Prop :=
  ∀ (s : State) (pre post : List Char) (len : Nat),
    ValidInput (pre ++ List.replicate len '0' ++ post) → Fits s.params (pre ++ List.replicate len '0' ++ post) →
    (pre = [] ∨ pre.getLast? = some '1') → (post = [] ∨ post.head? = some '1') →
      ∃ e, exec (.encodeB8zs (pre ++ List.replicate len '0' ++ post)) s = .next (answered s (.ok e)) ∧
        ∀ j, j < len →
          e.sig[2 * (pre.length + j)]? =
            if j < 8 * (len / 8) then
              (if pre.count '1' % 2 = 0
                then [Level.zero, .zero, .zero, .neg, .zero, .pos, .neg, .pos]
                else [Level.zero, .zero, .zero, .pos, .zero, .neg, .pos, .neg])[j % 8]?
            else some .zero

/-- 44_b8zs.md §6, item 1: where no 8 bits in a row are 0, B8ZS gives Bipolar-AMI's result. -/
def Obligations.B8zsWithoutZeroRunIsAmi : Prop :=
  ∀ (s : State) (inp : List Char), ValidInput inp → Fits s.params inp →
    ¬ List.replicate 8 '0' <:+: inp →
      ∃ e, exec (.encodeB8zs inp) s = .next (answered s (.ok e)) ∧
        exec (.encodeBipolarAmi inp) s = .next (answered s (.ok e))

/-! ## Properties of every result -/

/-- 40_pipeline.md §7, lengths: two samples a bit under every scheme, and as many time values as samples. -/
def Obligations.ResultLengths : Prop :=
  ∀ (s : State) (sch : SchemeId) (inp : List Char), ValidInput inp → Fits s.params inp →
    ∃ e, exec (Instr.encodeOf sch inp) s = .next (answered s (.ok e)) ∧
      e.sig.length = 2 * inp.length ∧ e.tax.length = e.sig.length ∧ e.bits.length = inp.length

/-- 40_pipeline.md §7, the step property: the two samples of a bit are equal under the five expanded schemes, and
opposite and different under the two Manchester schemes. -/
def Obligations.StepPropertyOrMidBitTransition : Prop :=
  ∀ (s : State) (sch : SchemeId) (inp : List Char), ValidInput inp → Fits s.params inp →
    ∃ e, exec (Instr.encodeOf sch inp) s = .next (answered s (.ok e)) ∧
      ∀ k, k < inp.length → ∃ v w, e.sig[2 * k]? = some v ∧ e.sig[2 * k + 1]? = some w ∧
        if sch = .manchester ∨ sch = .differentialManchester then w = v.opp ∧ w ≠ v else w = v

/-- 40_pipeline.md §7, value range: four schemes never give 0. -/
def Obligations.TwoLevelSchemesNeverGiveZero : Prop :=
  ∀ (s : State) (sch : SchemeId) (inp : List Char), ValidInput inp → Fits s.params inp →
    sch ∈ [SchemeId.nrzL, .nrzI, .manchester, .differentialManchester] →
      ∃ e, exec (Instr.encodeOf sch inp) s = .next (answered s (.ok e)) ∧ Level.zero ∉ e.sig

/-- 40_pipeline.md §5: the time axis is strictly increasing and as long as the signal, which the source fixes; that
Tax[i] = i is the spec's own choice (92_eei_decisions.md D7, log entry 16). -/
def Obligations.TimeAxisOfEveryResult : Prop :=
  ∀ (s : State) (sch : SchemeId) (inp : List Char), ValidInput inp → Fits s.params inp →
    ∃ e, exec (Instr.encodeOf sch inp) s = .next (answered s (.ok e)) ∧
      e.tax.length = e.sig.length ∧ e.tax.Pairwise (· < ·) ∧ ∀ i, i < e.sig.length → e.tax[i]? = some i

/-! ## Codes and realisations -/

/-- 30_encoding.md R56: the 2-bit code of each level, which is the level in two's complement; code 0b10 is never
produced. -/
def Obligations.LevelCodes : Prop :=
  levelCode .pos = 0b01#2 ∧ levelCode .zero = 0b00#2 ∧ levelCode .neg = 0b11#2 ∧
    ∀ l : Level, (levelCode l).toInt = l.toInt ∧ levelCode l ≠ 0b10#2 ∧ levelOfCode (levelCode l) = l

/-- 30_encoding.md R58: status 0 for a result or a list, 1 for the error, after which nothing follows; a refused
transaction has no response. -/
def Obligations.ResponseStatus : Prop :=
  ∀ (p : Params) (e : EncodingResult) (l : List SchemeId) (k : ErrorKind),
    (wireOf p (.ok e)).status = 0 ∧ (wireOf p (.schemeList l)).status = 0 ∧
    wireOf p (.err k) = { status := 1, sig := [], tax := [], bits := [], schemes := [] } ∧
    ∀ (s : State) (r : Refusal), step s = .refused r → ¬ ∃ t, step s = .next t

/-- 30_encoding.md R59: the list is seven elements in the table's order, with the codes 0 to 6. -/
def Obligations.SchemeListCodes : Prop :=
  ∀ s : State, s.schemeTable = schemeTableConst →
    ∃ l, exec .listSchemes s = .next (answered s (.schemeList l)) ∧ l.length = 7 ∧ l = State.reset.schemeTable ∧
      (wireOf s.params (.schemeList l)).schemes = [0#3, 1#3, 2#3, 3#3, 4#3, 5#3, 6#3]

/-- 20_memory.md §2: an element of a packed sequence stands at its bits of its word, whatever fills the rest, in words of
any width that holds the elements. -/
def Obligations.PackedElementsReadBack : Prop :=
  ∀ (w e width : Nat) (xs : List (BitVec w)), 0 < e → w * e ≤ width →
    ∀ i, i < xs.length → packedElement w e width (pack w e width xs) i = xs[i]?

/-- 30_encoding.md §5: an instance whose index width is admissible holds every time value of every result exactly. It rests
on the values of the time axis, the spec's choice D7 (40_pipeline.md §5, log entry 16). -/
def Obligations.TimeAxisFitsIndexWidth : Prop :=
  ∀ (s : State) (sch : SchemeId) (inp : List Char), s.params.wf = true → ValidInput inp → Fits s.params inp →
    ∃ e, exec (Instr.encodeOf sch inp) s = .next (answered s (.ok e)) ∧
      (wireOf s.params (.ok e)).tax = e.tax

/-- 10_state.md §4: the B8ZS length test computed as n − cur ≥ 8 in indices of an admissible width equals the exact
comparison. -/
def Obligations.NarrowLookaheadTestIsExact : Prop :=
  ∀ (p : Params) (nMax width cur n : Nat), p.wf = true → p.nMax = some nMax → p.idxWidth = some width →
    cur ≤ n → n ≤ nMax → blockFitsNarrow width cur n = decide (cur + 8 ≤ n)

/-- 60_exceptions.md §7, 20_memory.md §7: instances share no state. Steps of two instances may be taken in either order
with the same outcome, and neither touches a third. -/
def Obligations.InstancesAreIndependent : Prop :=
  ∀ (sys a b : List State) (j k : Nat), j ≠ k → stepInstance j sys = .next a → stepInstance k sys = .next b →
    (∃ c, stepInstance k a = .next c ∧ stepInstance j b = .next c) ∧
    ∀ m, m ≠ j → a[m]? = sys[m]?
end

