-- ==== Sys2Proof/Laws/State.lean ====
section
/-! SUPPORT. One lemma per field per update of the state and of the working registers. -/

namespace Sys2Proof.Machine

/-! ### The state -/

@[simp] theorem State.respond_params (s : State) (r : Response) : (s.respond r).params = s.params := rfl
@[simp] theorem State.respond_schemeTable (s : State) (r : Response) :
    (s.respond r).schemeTable = s.schemeTable := rfl
@[simp] theorem State.respond_work (s : State) (r : Response) : (s.respond r).work = none := rfl
@[simp] theorem State.respond_issued (s : State) (r : Response) : (s.respond r).issued = s.issued := rfl
@[simp] theorem State.respond_responses (s : State) (r : Response) :
    (s.respond r).responses = s.responses ++ [r] := rfl

@[simp] theorem State.raiseInvalidInput_params (s : State) : s.raiseInvalidInput.params = s.params := rfl
@[simp] theorem State.raiseInvalidInput_schemeTable (s : State) :
    s.raiseInvalidInput.schemeTable = s.schemeTable := rfl
@[simp] theorem State.raiseInvalidInput_work (s : State) : s.raiseInvalidInput.work = none := rfl
@[simp] theorem State.raiseInvalidInput_issued (s : State) : s.raiseInvalidInput.issued = s.issued := rfl
@[simp] theorem State.raiseInvalidInput_responses (s : State) :
    s.raiseInvalidInput.responses = s.responses ++ [.err .invalidInput] := rfl

@[simp] theorem State.racedRespond_params (s : State) : s.racedRespond.params = s.params := rfl
@[simp] theorem State.racedRespond_schemeTable (s : State) : s.racedRespond.schemeTable = s.schemeTable := rfl
@[simp] theorem State.racedRespond_work (s : State) : s.racedRespond.work = none := rfl
@[simp] theorem State.racedRespond_issued (s : State) : s.racedRespond.issued = s.issued := rfl
@[simp] theorem State.racedRespond_responses (s : State) :
    s.racedRespond.responses = s.responses ++ [Config.racedResponse s.responses.length] := rfl
@[simp] theorem State.unlessRaced_false (s t : State) : s.unlessRaced false t = t := rfl
@[simp] theorem State.unlessRaced_true (s t : State) : s.unlessRaced true t = s.racedRespond := rfl

@[simp] theorem State.resetBlock_params (s : State) : s.resetBlock.params = s.params := rfl
@[simp] theorem State.resetBlock_schemeTable (s : State) : s.resetBlock.schemeTable = s.schemeTable := rfl
@[simp] theorem State.resetBlock_work (s : State) : s.resetBlock.work = none := rfl
@[simp] theorem State.resetBlock_issued (s : State) : s.resetBlock.issued = s.issued := rfl
@[simp] theorem State.resetBlock_responses (s : State) : s.resetBlock.responses = s.responses := rfl

@[simp] theorem State.withWork_params (s : State) (w : Work) : (s.withWork w).params = s.params := rfl
@[simp] theorem State.withWork_schemeTable (s : State) (w : Work) : (s.withWork w).schemeTable = s.schemeTable := rfl
@[simp] theorem State.withWork_work (s : State) (w : Work) : (s.withWork w).work = some w := rfl
@[simp] theorem State.withWork_issued (s : State) (w : Work) : (s.withWork w).issued = s.issued := rfl
@[simp] theorem State.withWork_responses (s : State) (w : Work) : (s.withWork w).responses = s.responses := rfl

@[simp] theorem placeAction_params (s : State) (a : HostAction) : (placeAction a s).params = s.params := rfl
@[simp] theorem placeAction_schemeTable (s : State) (a : HostAction) :
    (placeAction a s).schemeTable = s.schemeTable := rfl
@[simp] theorem placeAction_work (s : State) (a : HostAction) : (placeAction a s).work = none := rfl
@[simp] theorem placeAction_issued (s : State) (a : HostAction) :
    (placeAction a s).issued = a :: s.issued.drop 1 := rfl
@[simp] theorem placeAction_responses (s : State) (a : HostAction) : (placeAction a s).responses = s.responses := rfl

/-! ### The working registers -/

@[simp] theorem Work.emit_scheme (w : Work) (v : Level) : (w.emit v).scheme = w.scheme := rfl
@[simp] theorem Work.emit_inp (w : Work) (v : Level) : (w.emit v).inp = w.inp := rfl
@[simp] theorem Work.emit_b (w : Work) (v : Level) : (w.emit v).b = w.b := rfl
@[simp] theorem Work.emit_cur (w : Work) (v : Level) : (w.emit v).cur = w.cur := rfl
@[simp] theorem Work.emit_level (w : Work) (v : Level) : (w.emit v).level = w.level := rfl
@[simp] theorem Work.emit_polAmi (w : Work) (v : Level) : (w.emit v).polAmi = w.polAmi := rfl
@[simp] theorem Work.emit_polPt (w : Work) (v : Level) : (w.emit v).polPt = w.polPt := rfl
@[simp] theorem Work.emit_ref (w : Work) (v : Level) : (w.emit v).ref = w.ref := rfl
@[simp] theorem Work.emit_polB8zs (w : Work) (v : Level) : (w.emit v).polB8zs = w.polB8zs := rfl
@[simp] theorem Work.emit_raw (w : Work) (v : Level) : (w.emit v).raw = w.raw ++ [v] := rfl
@[simp] theorem Work.emit_sig (w : Work) (v : Level) : (w.emit v).sig = w.sig := rfl
@[simp] theorem Work.emit_tax (w : Work) (v : Level) : (w.emit v).tax = w.tax := rfl
@[simp] theorem Work.emit_stage (w : Work) (v : Level) : (w.emit v).stage = w.stage := rfl
@[simp] theorem Work.emit_raced (w : Work) (v : Level) : (w.emit v).raced = w.raced := rfl

@[simp] theorem Work.emitAll_scheme (w : Work) (vs : List Level) : (w.emitAll vs).scheme = w.scheme := rfl
@[simp] theorem Work.emitAll_inp (w : Work) (vs : List Level) : (w.emitAll vs).inp = w.inp := rfl
@[simp] theorem Work.emitAll_b (w : Work) (vs : List Level) : (w.emitAll vs).b = w.b := rfl
@[simp] theorem Work.emitAll_cur (w : Work) (vs : List Level) : (w.emitAll vs).cur = w.cur := rfl
@[simp] theorem Work.emitAll_level (w : Work) (vs : List Level) : (w.emitAll vs).level = w.level := rfl
@[simp] theorem Work.emitAll_polAmi (w : Work) (vs : List Level) : (w.emitAll vs).polAmi = w.polAmi := rfl
@[simp] theorem Work.emitAll_polPt (w : Work) (vs : List Level) : (w.emitAll vs).polPt = w.polPt := rfl
@[simp] theorem Work.emitAll_ref (w : Work) (vs : List Level) : (w.emitAll vs).ref = w.ref := rfl
@[simp] theorem Work.emitAll_polB8zs (w : Work) (vs : List Level) : (w.emitAll vs).polB8zs = w.polB8zs := rfl
@[simp] theorem Work.emitAll_raw (w : Work) (vs : List Level) : (w.emitAll vs).raw = w.raw ++ vs := rfl
@[simp] theorem Work.emitAll_sig (w : Work) (vs : List Level) : (w.emitAll vs).sig = w.sig := rfl
@[simp] theorem Work.emitAll_tax (w : Work) (vs : List Level) : (w.emitAll vs).tax = w.tax := rfl
@[simp] theorem Work.emitAll_stage (w : Work) (vs : List Level) : (w.emitAll vs).stage = w.stage := rfl
@[simp] theorem Work.emitAll_raced (w : Work) (vs : List Level) : (w.emitAll vs).raced = w.raced := rfl

@[simp] theorem Work.advance_scheme (w : Work) (k : Nat) : (w.advance k).scheme = w.scheme := rfl
@[simp] theorem Work.advance_inp (w : Work) (k : Nat) : (w.advance k).inp = w.inp := rfl
@[simp] theorem Work.advance_b (w : Work) (k : Nat) : (w.advance k).b = w.b := rfl
@[simp] theorem Work.advance_cur (w : Work) (k : Nat) : (w.advance k).cur = w.cur + k := rfl
@[simp] theorem Work.advance_level (w : Work) (k : Nat) : (w.advance k).level = w.level := rfl
@[simp] theorem Work.advance_polAmi (w : Work) (k : Nat) : (w.advance k).polAmi = w.polAmi := rfl
@[simp] theorem Work.advance_polPt (w : Work) (k : Nat) : (w.advance k).polPt = w.polPt := rfl
@[simp] theorem Work.advance_ref (w : Work) (k : Nat) : (w.advance k).ref = w.ref := rfl
@[simp] theorem Work.advance_polB8zs (w : Work) (k : Nat) : (w.advance k).polB8zs = w.polB8zs := rfl
@[simp] theorem Work.advance_raw (w : Work) (k : Nat) : (w.advance k).raw = w.raw := rfl
@[simp] theorem Work.advance_sig (w : Work) (k : Nat) : (w.advance k).sig = w.sig := rfl
@[simp] theorem Work.advance_tax (w : Work) (k : Nat) : (w.advance k).tax = w.tax := rfl
@[simp] theorem Work.advance_stage (w : Work) (k : Nat) : (w.advance k).stage = w.stage := rfl
@[simp] theorem Work.advance_raced (w : Work) (k : Nat) : (w.advance k).raced = w.raced := rfl

@[simp] theorem Work.setLevel_scheme (w : Work) (v : Pol) : (w.setLevel v).scheme = w.scheme := rfl
@[simp] theorem Work.setLevel_inp (w : Work) (v : Pol) : (w.setLevel v).inp = w.inp := rfl
@[simp] theorem Work.setLevel_b (w : Work) (v : Pol) : (w.setLevel v).b = w.b := rfl
@[simp] theorem Work.setLevel_cur (w : Work) (v : Pol) : (w.setLevel v).cur = w.cur := rfl
@[simp] theorem Work.setLevel_level (w : Work) (v : Pol) : (w.setLevel v).level = v := rfl
@[simp] theorem Work.setLevel_polAmi (w : Work) (v : Pol) : (w.setLevel v).polAmi = w.polAmi := rfl
@[simp] theorem Work.setLevel_polPt (w : Work) (v : Pol) : (w.setLevel v).polPt = w.polPt := rfl
@[simp] theorem Work.setLevel_ref (w : Work) (v : Pol) : (w.setLevel v).ref = w.ref := rfl
@[simp] theorem Work.setLevel_polB8zs (w : Work) (v : Pol) : (w.setLevel v).polB8zs = w.polB8zs := rfl
@[simp] theorem Work.setLevel_raw (w : Work) (v : Pol) : (w.setLevel v).raw = w.raw := rfl
@[simp] theorem Work.setLevel_sig (w : Work) (v : Pol) : (w.setLevel v).sig = w.sig := rfl
@[simp] theorem Work.setLevel_tax (w : Work) (v : Pol) : (w.setLevel v).tax = w.tax := rfl
@[simp] theorem Work.setLevel_stage (w : Work) (v : Pol) : (w.setLevel v).stage = w.stage := rfl
@[simp] theorem Work.setLevel_raced (w : Work) (v : Pol) : (w.setLevel v).raced = w.raced := rfl

@[simp] theorem Work.setPolAmi_scheme (w : Work) (v : Pol) : (w.setPolAmi v).scheme = w.scheme := rfl
@[simp] theorem Work.setPolAmi_inp (w : Work) (v : Pol) : (w.setPolAmi v).inp = w.inp := rfl
@[simp] theorem Work.setPolAmi_b (w : Work) (v : Pol) : (w.setPolAmi v).b = w.b := rfl
@[simp] theorem Work.setPolAmi_cur (w : Work) (v : Pol) : (w.setPolAmi v).cur = w.cur := rfl
@[simp] theorem Work.setPolAmi_level (w : Work) (v : Pol) : (w.setPolAmi v).level = w.level := rfl
@[simp] theorem Work.setPolAmi_polAmi (w : Work) (v : Pol) : (w.setPolAmi v).polAmi = v := rfl
@[simp] theorem Work.setPolAmi_polPt (w : Work) (v : Pol) : (w.setPolAmi v).polPt = w.polPt := rfl
@[simp] theorem Work.setPolAmi_ref (w : Work) (v : Pol) : (w.setPolAmi v).ref = w.ref := rfl
@[simp] theorem Work.setPolAmi_polB8zs (w : Work) (v : Pol) : (w.setPolAmi v).polB8zs = w.polB8zs := rfl
@[simp] theorem Work.setPolAmi_raw (w : Work) (v : Pol) : (w.setPolAmi v).raw = w.raw := rfl
@[simp] theorem Work.setPolAmi_sig (w : Work) (v : Pol) : (w.setPolAmi v).sig = w.sig := rfl
@[simp] theorem Work.setPolAmi_tax (w : Work) (v : Pol) : (w.setPolAmi v).tax = w.tax := rfl
@[simp] theorem Work.setPolAmi_stage (w : Work) (v : Pol) : (w.setPolAmi v).stage = w.stage := rfl
@[simp] theorem Work.setPolAmi_raced (w : Work) (v : Pol) : (w.setPolAmi v).raced = w.raced := rfl

@[simp] theorem Work.setPolPt_scheme (w : Work) (v : Pol) : (w.setPolPt v).scheme = w.scheme := rfl
@[simp] theorem Work.setPolPt_inp (w : Work) (v : Pol) : (w.setPolPt v).inp = w.inp := rfl
@[simp] theorem Work.setPolPt_b (w : Work) (v : Pol) : (w.setPolPt v).b = w.b := rfl
@[simp] theorem Work.setPolPt_cur (w : Work) (v : Pol) : (w.setPolPt v).cur = w.cur := rfl
@[simp] theorem Work.setPolPt_level (w : Work) (v : Pol) : (w.setPolPt v).level = w.level := rfl
@[simp] theorem Work.setPolPt_polAmi (w : Work) (v : Pol) : (w.setPolPt v).polAmi = w.polAmi := rfl
@[simp] theorem Work.setPolPt_polPt (w : Work) (v : Pol) : (w.setPolPt v).polPt = v := rfl
@[simp] theorem Work.setPolPt_ref (w : Work) (v : Pol) : (w.setPolPt v).ref = w.ref := rfl
@[simp] theorem Work.setPolPt_polB8zs (w : Work) (v : Pol) : (w.setPolPt v).polB8zs = w.polB8zs := rfl
@[simp] theorem Work.setPolPt_raw (w : Work) (v : Pol) : (w.setPolPt v).raw = w.raw := rfl
@[simp] theorem Work.setPolPt_sig (w : Work) (v : Pol) : (w.setPolPt v).sig = w.sig := rfl
@[simp] theorem Work.setPolPt_tax (w : Work) (v : Pol) : (w.setPolPt v).tax = w.tax := rfl
@[simp] theorem Work.setPolPt_stage (w : Work) (v : Pol) : (w.setPolPt v).stage = w.stage := rfl
@[simp] theorem Work.setPolPt_raced (w : Work) (v : Pol) : (w.setPolPt v).raced = w.raced := rfl

@[simp] theorem Work.setRef_scheme (w : Work) (v : Pol) : (w.setRef v).scheme = w.scheme := rfl
@[simp] theorem Work.setRef_inp (w : Work) (v : Pol) : (w.setRef v).inp = w.inp := rfl
@[simp] theorem Work.setRef_b (w : Work) (v : Pol) : (w.setRef v).b = w.b := rfl
@[simp] theorem Work.setRef_cur (w : Work) (v : Pol) : (w.setRef v).cur = w.cur := rfl
@[simp] theorem Work.setRef_level (w : Work) (v : Pol) : (w.setRef v).level = w.level := rfl
@[simp] theorem Work.setRef_polAmi (w : Work) (v : Pol) : (w.setRef v).polAmi = w.polAmi := rfl
@[simp] theorem Work.setRef_polPt (w : Work) (v : Pol) : (w.setRef v).polPt = w.polPt := rfl
@[simp] theorem Work.setRef_ref (w : Work) (v : Pol) : (w.setRef v).ref = v := rfl
@[simp] theorem Work.setRef_polB8zs (w : Work) (v : Pol) : (w.setRef v).polB8zs = w.polB8zs := rfl
@[simp] theorem Work.setRef_raw (w : Work) (v : Pol) : (w.setRef v).raw = w.raw := rfl
@[simp] theorem Work.setRef_sig (w : Work) (v : Pol) : (w.setRef v).sig = w.sig := rfl
@[simp] theorem Work.setRef_tax (w : Work) (v : Pol) : (w.setRef v).tax = w.tax := rfl
@[simp] theorem Work.setRef_stage (w : Work) (v : Pol) : (w.setRef v).stage = w.stage := rfl
@[simp] theorem Work.setRef_raced (w : Work) (v : Pol) : (w.setRef v).raced = w.raced := rfl

@[simp] theorem Work.setPolB8zs_scheme (w : Work) (v : Pol) : (w.setPolB8zs v).scheme = w.scheme := rfl
@[simp] theorem Work.setPolB8zs_inp (w : Work) (v : Pol) : (w.setPolB8zs v).inp = w.inp := rfl
@[simp] theorem Work.setPolB8zs_b (w : Work) (v : Pol) : (w.setPolB8zs v).b = w.b := rfl
@[simp] theorem Work.setPolB8zs_cur (w : Work) (v : Pol) : (w.setPolB8zs v).cur = w.cur := rfl
@[simp] theorem Work.setPolB8zs_level (w : Work) (v : Pol) : (w.setPolB8zs v).level = w.level := rfl
@[simp] theorem Work.setPolB8zs_polAmi (w : Work) (v : Pol) : (w.setPolB8zs v).polAmi = w.polAmi := rfl
@[simp] theorem Work.setPolB8zs_polPt (w : Work) (v : Pol) : (w.setPolB8zs v).polPt = w.polPt := rfl
@[simp] theorem Work.setPolB8zs_ref (w : Work) (v : Pol) : (w.setPolB8zs v).ref = w.ref := rfl
@[simp] theorem Work.setPolB8zs_polB8zs (w : Work) (v : Pol) : (w.setPolB8zs v).polB8zs = v := rfl
@[simp] theorem Work.setPolB8zs_raw (w : Work) (v : Pol) : (w.setPolB8zs v).raw = w.raw := rfl
@[simp] theorem Work.setPolB8zs_sig (w : Work) (v : Pol) : (w.setPolB8zs v).sig = w.sig := rfl
@[simp] theorem Work.setPolB8zs_tax (w : Work) (v : Pol) : (w.setPolB8zs v).tax = w.tax := rfl
@[simp] theorem Work.setPolB8zs_stage (w : Work) (v : Pol) : (w.setPolB8zs v).stage = w.stage := rfl
@[simp] theorem Work.setPolB8zs_raced (w : Work) (v : Pol) : (w.setPolB8zs v).raced = w.raced := rfl

@[simp] theorem Work.setB_scheme (w : Work) (bits : List Bit) : (w.setB bits).scheme = w.scheme := rfl
@[simp] theorem Work.setB_inp (w : Work) (bits : List Bit) : (w.setB bits).inp = w.inp := rfl
@[simp] theorem Work.setB_b (w : Work) (bits : List Bit) : (w.setB bits).b = bits := rfl
@[simp] theorem Work.setB_cur (w : Work) (bits : List Bit) : (w.setB bits).cur = w.cur := rfl
@[simp] theorem Work.setB_level (w : Work) (bits : List Bit) : (w.setB bits).level = w.level := rfl
@[simp] theorem Work.setB_polAmi (w : Work) (bits : List Bit) : (w.setB bits).polAmi = w.polAmi := rfl
@[simp] theorem Work.setB_polPt (w : Work) (bits : List Bit) : (w.setB bits).polPt = w.polPt := rfl
@[simp] theorem Work.setB_ref (w : Work) (bits : List Bit) : (w.setB bits).ref = w.ref := rfl
@[simp] theorem Work.setB_polB8zs (w : Work) (bits : List Bit) : (w.setB bits).polB8zs = w.polB8zs := rfl
@[simp] theorem Work.setB_raw (w : Work) (bits : List Bit) : (w.setB bits).raw = w.raw := rfl
@[simp] theorem Work.setB_sig (w : Work) (bits : List Bit) : (w.setB bits).sig = w.sig := rfl
@[simp] theorem Work.setB_tax (w : Work) (bits : List Bit) : (w.setB bits).tax = w.tax := rfl
@[simp] theorem Work.setB_stage (w : Work) (bits : List Bit) : (w.setB bits).stage = w.stage := rfl
@[simp] theorem Work.setB_raced (w : Work) (bits : List Bit) : (w.setB bits).raced = w.raced := rfl

@[simp] theorem Work.setSig_scheme (w : Work) (sig : List Level) : (w.setSig sig).scheme = w.scheme := rfl
@[simp] theorem Work.setSig_inp (w : Work) (sig : List Level) : (w.setSig sig).inp = w.inp := rfl
@[simp] theorem Work.setSig_b (w : Work) (sig : List Level) : (w.setSig sig).b = w.b := rfl
@[simp] theorem Work.setSig_cur (w : Work) (sig : List Level) : (w.setSig sig).cur = w.cur := rfl
@[simp] theorem Work.setSig_level (w : Work) (sig : List Level) : (w.setSig sig).level = w.level := rfl
@[simp] theorem Work.setSig_polAmi (w : Work) (sig : List Level) : (w.setSig sig).polAmi = w.polAmi := rfl
@[simp] theorem Work.setSig_polPt (w : Work) (sig : List Level) : (w.setSig sig).polPt = w.polPt := rfl
@[simp] theorem Work.setSig_ref (w : Work) (sig : List Level) : (w.setSig sig).ref = w.ref := rfl
@[simp] theorem Work.setSig_polB8zs (w : Work) (sig : List Level) : (w.setSig sig).polB8zs = w.polB8zs := rfl
@[simp] theorem Work.setSig_raw (w : Work) (sig : List Level) : (w.setSig sig).raw = w.raw := rfl
@[simp] theorem Work.setSig_sig (w : Work) (sig : List Level) : (w.setSig sig).sig = sig := rfl
@[simp] theorem Work.setSig_tax (w : Work) (sig : List Level) : (w.setSig sig).tax = w.tax := rfl
@[simp] theorem Work.setSig_stage (w : Work) (sig : List Level) : (w.setSig sig).stage = w.stage := rfl
@[simp] theorem Work.setSig_raced (w : Work) (sig : List Level) : (w.setSig sig).raced = w.raced := rfl

@[simp] theorem Work.setTax_scheme (w : Work) (tax : List Nat) : (w.setTax tax).scheme = w.scheme := rfl
@[simp] theorem Work.setTax_inp (w : Work) (tax : List Nat) : (w.setTax tax).inp = w.inp := rfl
@[simp] theorem Work.setTax_b (w : Work) (tax : List Nat) : (w.setTax tax).b = w.b := rfl
@[simp] theorem Work.setTax_cur (w : Work) (tax : List Nat) : (w.setTax tax).cur = w.cur := rfl
@[simp] theorem Work.setTax_level (w : Work) (tax : List Nat) : (w.setTax tax).level = w.level := rfl
@[simp] theorem Work.setTax_polAmi (w : Work) (tax : List Nat) : (w.setTax tax).polAmi = w.polAmi := rfl
@[simp] theorem Work.setTax_polPt (w : Work) (tax : List Nat) : (w.setTax tax).polPt = w.polPt := rfl
@[simp] theorem Work.setTax_ref (w : Work) (tax : List Nat) : (w.setTax tax).ref = w.ref := rfl
@[simp] theorem Work.setTax_polB8zs (w : Work) (tax : List Nat) : (w.setTax tax).polB8zs = w.polB8zs := rfl
@[simp] theorem Work.setTax_raw (w : Work) (tax : List Nat) : (w.setTax tax).raw = w.raw := rfl
@[simp] theorem Work.setTax_sig (w : Work) (tax : List Nat) : (w.setTax tax).sig = w.sig := rfl
@[simp] theorem Work.setTax_tax (w : Work) (tax : List Nat) : (w.setTax tax).tax = tax := rfl
@[simp] theorem Work.setTax_stage (w : Work) (tax : List Nat) : (w.setTax tax).stage = w.stage := rfl
@[simp] theorem Work.setTax_raced (w : Work) (tax : List Nat) : (w.setTax tax).raced = w.raced := rfl

@[simp] theorem Work.setStage_scheme (w : Work) (stage : Stage) : (w.setStage stage).scheme = w.scheme := rfl
@[simp] theorem Work.setStage_inp (w : Work) (stage : Stage) : (w.setStage stage).inp = w.inp := rfl
@[simp] theorem Work.setStage_b (w : Work) (stage : Stage) : (w.setStage stage).b = w.b := rfl
@[simp] theorem Work.setStage_cur (w : Work) (stage : Stage) : (w.setStage stage).cur = w.cur := rfl
@[simp] theorem Work.setStage_level (w : Work) (stage : Stage) : (w.setStage stage).level = w.level := rfl
@[simp] theorem Work.setStage_polAmi (w : Work) (stage : Stage) : (w.setStage stage).polAmi = w.polAmi := rfl
@[simp] theorem Work.setStage_polPt (w : Work) (stage : Stage) : (w.setStage stage).polPt = w.polPt := rfl
@[simp] theorem Work.setStage_ref (w : Work) (stage : Stage) : (w.setStage stage).ref = w.ref := rfl
@[simp] theorem Work.setStage_polB8zs (w : Work) (stage : Stage) : (w.setStage stage).polB8zs = w.polB8zs := rfl
@[simp] theorem Work.setStage_raw (w : Work) (stage : Stage) : (w.setStage stage).raw = w.raw := rfl
@[simp] theorem Work.setStage_sig (w : Work) (stage : Stage) : (w.setStage stage).sig = w.sig := rfl
@[simp] theorem Work.setStage_tax (w : Work) (stage : Stage) : (w.setStage stage).tax = w.tax := rfl
@[simp] theorem Work.setStage_stage (w : Work) (stage : Stage) : (w.setStage stage).stage = stage := rfl
@[simp] theorem Work.setStage_raced (w : Work) (stage : Stage) : (w.setStage stage).raced = w.raced := rfl

@[simp] theorem Work.capture_scheme (sch : SchemeId) (inp : List Char) :
    (Work.capture sch inp).scheme = sch := rfl
@[simp] theorem Work.capture_inp (sch : SchemeId) (inp : List Char) :
    (Work.capture sch inp).inp = inp := rfl
@[simp] theorem Work.capture_b (sch : SchemeId) (inp : List Char) :
    (Work.capture sch inp).b = [] := rfl
@[simp] theorem Work.capture_cur (sch : SchemeId) (inp : List Char) :
    (Work.capture sch inp).cur = 0 := rfl
@[simp] theorem Work.capture_level (sch : SchemeId) (inp : List Char) :
    (Work.capture sch inp).level = .minus := rfl
@[simp] theorem Work.capture_polAmi (sch : SchemeId) (inp : List Char) :
    (Work.capture sch inp).polAmi = .plus := rfl
@[simp] theorem Work.capture_polPt (sch : SchemeId) (inp : List Char) :
    (Work.capture sch inp).polPt = .plus := rfl
@[simp] theorem Work.capture_ref (sch : SchemeId) (inp : List Char) :
    (Work.capture sch inp).ref = .minus := rfl
@[simp] theorem Work.capture_polB8zs (sch : SchemeId) (inp : List Char) :
    (Work.capture sch inp).polB8zs = .plus := rfl
@[simp] theorem Work.capture_raw (sch : SchemeId) (inp : List Char) :
    (Work.capture sch inp).raw = [] := rfl
@[simp] theorem Work.capture_sig (sch : SchemeId) (inp : List Char) :
    (Work.capture sch inp).sig = [] := rfl
@[simp] theorem Work.capture_tax (sch : SchemeId) (inp : List Char) :
    (Work.capture sch inp).tax = [] := rfl
@[simp] theorem Work.capture_stage (sch : SchemeId) (inp : List Char) :
    (Work.capture sch inp).stage = .validate := rfl
@[simp] theorem Work.capture_raced (sch : SchemeId) (inp : List Char) :
    (Work.capture sch inp).raced = false := rfl

@[simp] theorem Work.setRaced_scheme (w : Work) : w.setRaced.scheme = w.scheme := rfl
@[simp] theorem Work.setRaced_inp (w : Work) : w.setRaced.inp = w.inp := rfl
@[simp] theorem Work.setRaced_b (w : Work) : w.setRaced.b = w.b := rfl
@[simp] theorem Work.setRaced_cur (w : Work) : w.setRaced.cur = w.cur := rfl
@[simp] theorem Work.setRaced_level (w : Work) : w.setRaced.level = w.level := rfl
@[simp] theorem Work.setRaced_polAmi (w : Work) : w.setRaced.polAmi = w.polAmi := rfl
@[simp] theorem Work.setRaced_polPt (w : Work) : w.setRaced.polPt = w.polPt := rfl
@[simp] theorem Work.setRaced_ref (w : Work) : w.setRaced.ref = w.ref := rfl
@[simp] theorem Work.setRaced_polB8zs (w : Work) : w.setRaced.polB8zs = w.polB8zs := rfl
@[simp] theorem Work.setRaced_raw (w : Work) : w.setRaced.raw = w.raw := rfl
@[simp] theorem Work.setRaced_sig (w : Work) : w.setRaced.sig = w.sig := rfl
@[simp] theorem Work.setRaced_tax (w : Work) : w.setRaced.tax = w.tax := rfl
@[simp] theorem Work.setRaced_stage (w : Work) : w.setRaced.stage = w.stage := rfl
@[simp] theorem Work.setRaced_raced (w : Work) : w.setRaced.raced = true := rfl
@[simp] theorem Work.captureRaced_raced (sch : SchemeId) : (Work.captureRaced sch).raced = true := rfl
@[simp] theorem Work.captureRaced_inp (sch : SchemeId) : (Work.captureRaced sch).inp = [] := rfl

end Sys2Proof.Machine
end

