-- ==== Sys2Proof/Laws/Ops.lean ====
section
/-! SUPPORT. For each shared operation, one lemma that says once what it can do. -/

namespace Sys2Proof

@[simp] theorem Pol.opp_opp (p : Pol) : p.opp.opp = p := by cases p <;> rfl
@[simp] theorem Level.opp_opp (l : Level) : l.opp.opp = l := by cases l <;> rfl
@[simp] theorem Bit.flip_flip (x : Bit) : x.flip.flip = x := by cases x <;> rfl
@[simp] theorem Pol.toLevel_opp (p : Pol) : p.opp.toLevel = p.toLevel.opp := by cases p <;> rfl
theorem Pol.toLevel_ne_zero (p : Pol) : p.toLevel ≠ .zero := by cases p <;> decide
theorem Level.toInt_opp (l : Level) : l.opp.toInt = -l.toInt := by cases l <;> rfl

namespace Machine

theorem tooLong_iff (p : Params) (inp : List Char) :
    tooLong p inp = true ↔ ∃ n, p.nMax = some n ∧ n < inp.length := by
  unfold tooLong; cases p.nMax <;> simp

/-! ### Operands -/

theorem validate_cases (inp : List Char) :
    (inp ≠ [] ∧ (∀ c ∈ inp, c = '0' ∨ c = '1') ∧ validate inp = .ok (inp.map bitOfChar)) ∨
      (¬ (inp ≠ [] ∧ ∀ c ∈ inp, c = '0' ∨ c = '1') ∧ validate inp = .error .invalidInput) := by
  cases inp with
  | nil => right; simp [validate]
  | cons c cs =>
    by_cases h : (c :: cs).all isBinaryChar = true
    · left
      refine ⟨by simp, fun d hd => ?_, by simp only [validate, h]; simp⟩
      have := List.all_eq_true.mp h d hd
      simpa [isBinaryChar] using this
    · right
      refine ⟨fun hv => h (List.all_eq_true.mpr fun d hd => ?_), by simp only [validate]; simp [h]⟩
      simpa [isBinaryChar] using hv.2 d hd

/-! ### The scan loop -/

theorem scanLoop_step (body : Work → Work) (k : Nat) (w : Work) (h : w.cur < w.b.length) :
    scanLoop body (k + 1) w = scanLoop body k (body w) := by
  simp [scanLoop, Work.bitsLeft, h]

theorem scanLoop_stop (body : Work → Work) (k : Nat) (w : Work) (h : w.b.length ≤ w.cur) :
    scanLoop body k w = w := by
  cases k with
  | zero => rfl
  | succ k => simp [scanLoop, Work.bitsLeft, Nat.not_lt.mpr h]

/-- What one step of any encoder may touch: the cursor moves on by 1 to 8, levels are appended, and the operand, the
bits, the scheme and the stage stay. -/
structure ScanMove (w v : Work) : Prop where
  scheme : v.scheme = w.scheme
  inp : v.inp = w.inp
  b : v.b = w.b
  stage : v.stage = w.stage
  raced : v.raced = w.raced
  sig : v.sig = w.sig
  tax : v.tax = w.tax
  cur : w.cur < v.cur ∧ v.cur ≤ w.b.length
  raw : ∃ vs, v.raw = w.raw ++ vs

theorem readBit_of_lt (w : Work) (h : w.cur < w.b.length) : w.readBit = some w.b[w.cur] := by
  simp [Work.readBit, h]

/-- Every step of every encoder with bits left is such a move (70_reset_and_hazards.md R117). -/
theorem scanBody_move (sch : SchemeId) (w : Work) (h : w.cur < w.b.length) : ScanMove w (scanBody sch w) := by
  have hr := readBit_of_lt w h
  cases sch
  case b8zs =>
    by_cases hz : w.zeroBlockAhead = true
    · have hle : w.cur + 8 ≤ w.b.length := by
        have := hz
        simp only [Work.zeroBlockAhead, b8zsWindow, Bool.and_eq_true] at this
        exact of_decide_eq_true this.1
      simp only [scanBody, scanB8zs, hz, if_true]
      exact ⟨rfl, rfl, rfl, rfl, rfl, rfl, rfl, by simp [b8zsWindow]; exact hle, _, rfl⟩
    · cases hb : w.b[w.cur] <;> rw [hb] at hr <;> simp only [scanBody, scanB8zs, hz, hr] <;>
        exact ⟨rfl, rfl, rfl, rfl, rfl, rfl, rfl, ⟨Nat.lt_succ_self _, h⟩, _, rfl⟩
  case manchester =>
    cases hb : w.b[w.cur] <;> rw [hb] at hr <;> simp only [scanBody, scanManchester, hr] <;>
      exact ⟨rfl, rfl, rfl, rfl, rfl, rfl, rfl, ⟨Nat.lt_succ_self _, h⟩, _, List.append_assoc _ _ _⟩
  case differentialManchester =>
    cases hb : w.b[w.cur] <;> rw [hb] at hr <;> simp only [scanBody, scanDifferentialManchester, hr] <;>
      exact ⟨rfl, rfl, rfl, rfl, rfl, rfl, rfl, ⟨Nat.lt_succ_self _, h⟩, _, List.append_assoc _ _ _⟩
  all_goals
    cases hb : w.b[w.cur] <;> rw [hb] at hr <;>
      simp only [scanBody, scanNrzL, scanNrzI, scanBipolarAmi, scanPseudoternary, hr] <;>
      exact ⟨rfl, rfl, rfl, rfl, rfl, rfl, rfl, ⟨Nat.lt_succ_self _, h⟩, _, rfl⟩

/-- No encoder takes the mark of a rewritten operand away, and none sets it. -/
theorem scanLoop_raced (sch : SchemeId) : ∀ k w, (scanLoop (scanBody sch) k w).raced = w.raced := by
  intro k
  induction k with
  | zero => intro w; rfl
  | succ k ih =>
    intro w
    by_cases hl : w.cur < w.b.length
    · rw [scanLoop_step _ _ _ hl, ih, (scanBody_move sch w hl).raced]
    · rw [scanLoop_stop _ _ _ (by omega)]

@[simp] theorem runScan_raced (w : Work) : (runScan w).raced = w.raced := scanLoop_raced _ _ _

/-- The induction over the scan loop, done once. Let `f` give the levels that a register value and the bits still ahead
stand for; if a step of `body` trades what it emits for what it consumes, the loop emits exactly `f`. -/
theorem scanLoop_emits (body : Work → Work) (reg : Work → Pol) (f : Pol → List Bit → List Level)
    (hnil : ∀ p, f p [] = []) (hmove : ∀ w, w.cur < w.b.length → ScanMove w (body w))
    (hstep : ∀ w, w.cur < w.b.length →
      (body w).raw ++ f (reg (body w)) (w.b.drop (body w).cur) = w.raw ++ f (reg w) (w.b.drop w.cur)) :
    ∀ k w, w.b.length - w.cur ≤ k →
      (scanLoop body k w).raw = w.raw ++ f (reg w) (w.b.drop w.cur) ∧
        (scanLoop body k w).scheme = w.scheme ∧ (scanLoop body k w).b = w.b := by
  intro k
  induction k with
  | zero =>
    intro w h
    simp [scanLoop, List.drop_eq_nil_of_le (show w.b.length ≤ w.cur by omega), hnil]
  | succ k ih =>
    intro w h
    by_cases hl : w.cur < w.b.length
    · have m := hmove w hl
      have := ih (body w) (by rw [m.b]; have := m.cur; omega)
      rw [m.b, m.scheme] at this
      rw [scanLoop_step _ _ _ hl, this.1, hstep w hl]
      exact ⟨rfl, this.2⟩
    · rw [scanLoop_stop _ _ _ (by omega)]
      simp [List.drop_eq_nil_of_le (show w.b.length ≤ w.cur by omega), hnil]

/-! ### The pipeline and the machine -/

/-- The stages after the scan, put together. -/
theorem finishEncode_eq (w : Work) (s : State) :
    finishEncode w s =
      s.unlessRaced w.raced (s.respond (.ok
        { sig := signalOf (runScan w).scheme (runScan w).raw
          tax := timeAxis (signalOf (runScan w).scheme (runScan w).raw).length
          bits := (runScan w).b })) := by
  rw [← runScan_raced w]; rfl

/-- A transaction ends with one response, whether or not its operand was rewritten. -/
theorem unlessRaced_responds (s : State) (raced : Bool) (r : Response) :
    ∃ r', s.unlessRaced raced (s.respond r) = s.respond r' := by
  cases raced
  · exact ⟨_, rfl⟩
  · exact ⟨_, rfl⟩

/-- A transaction whose operand was rewritten ends with any response, from whatever stage it is at
(70_reset_and_hazards.md R115). -/
theorem finishFrom_raced (w : Work) (s : State) (h : w.raced = true) : finishFrom w s = s.racedRespond := by
  unfold finishFrom
  cases w.stage
  case validate =>
    rcases validate_cases w.inp with ⟨-, -, hv⟩ | ⟨-, hv⟩
    · simp only [finishValidate, hv, finishEncode_eq, Work.setB_raced, h, State.unlessRaced_true]
    · simp only [finishValidate, hv, h, State.unlessRaced_true]
  case encode => simp only [finishEncode_eq, h, State.unlessRaced_true]
  all_goals
    simp only [finishExpand, finishTimeAxis, finishAssemble, Work.setTax_raced, Work.setSig_raced, h,
      State.unlessRaced_true]

/-- Whatever stage a transaction is at, finishing it adds one response and leaves no working register. -/
theorem finishFrom_responds (w : Work) (s : State) : ∃ r, finishFrom w s = s.respond r := by
  unfold finishFrom
  cases w.stage
  case validate =>
    rcases validate_cases w.inp with ⟨-, -, h⟩ | ⟨-, h⟩
    · simp only [finishValidate, h, finishEncode_eq]; exact unlessRaced_responds _ _ _
    · simp only [finishValidate, h]; exact unlessRaced_responds _ _ _
  case encode => simp only [finishEncode_eq]; exact unlessRaced_responds _ _ _
  all_goals exact unlessRaced_responds _ _ _

/-- An ENCODE ends in one of three ways: refused as too long, the error, or the result of its scan (40_pipeline.md R63,
60_exceptions.md R100). -/
theorem encodeTransaction_cases (sch : SchemeId) (inp : List Char) (s : State) :
    (tooLong s.params inp = true ∧ encodeTransaction sch inp s = .refused .tooLong) ∨
    (tooLong s.params inp = false ∧ ¬ (inp ≠ [] ∧ ∀ c ∈ inp, c = '0' ∨ c = '1') ∧
      encodeTransaction sch inp s = .next (s.respond (.err .invalidInput))) ∨
    (tooLong s.params inp = false ∧ inp ≠ [] ∧ (∀ c ∈ inp, c = '0' ∨ c = '1') ∧
      encodeTransaction sch inp s =
        .next (finishEncode ((Work.capture sch inp).setB (inp.map bitOfChar)) s)) := by
  cases ht : tooLong s.params inp
  · rcases validate_cases inp with ⟨h0, h1, h⟩ | ⟨h0, h⟩
    · right; right
      exact ⟨rfl, h0, h1, by simp [encodeTransaction, ht, finishFrom, finishValidate, h]⟩
    · right; left
      exact ⟨rfl, h0, by simp [encodeTransaction, ht, finishFrom, finishValidate, h, State.raiseInvalidInput]⟩
  · left; exact ⟨rfl, by simp [encodeTransaction, ht]⟩

theorem exec_encodeOf (sch : SchemeId) (inp : List Char) (s : State) :
    exec (Instr.encodeOf sch inp) s = encodeTransaction sch inp s := by cases sch <;> rfl

/-- Every instruction is LIST_SCHEMES or the ENCODE of one scheme. -/
theorem instr_cases (i : Instr) : i = .listSchemes ∨ ∃ sch, i = Instr.encodeOf sch i.operand := by
  cases i
  case listSchemes => exact .inl rfl
  case encodeNrzL => exact .inr ⟨.nrzL, rfl⟩
  case encodeNrzI => exact .inr ⟨.nrzI, rfl⟩
  case encodeBipolarAmi => exact .inr ⟨.bipolarAmi, rfl⟩
  case encodePseudoternary => exact .inr ⟨.pseudoternary, rfl⟩
  case encodeManchester => exact .inr ⟨.manchester, rfl⟩
  case encodeDifferentialManchester => exact .inr ⟨.differentialManchester, rfl⟩
  case encodeB8zs => exact .inr ⟨.b8zs, rfl⟩

/-- What a transaction rewritten before it began is answered with: the list, or any response. -/
theorem racedTransaction_cases (i : Instr) (s : State) :
    (i = .listSchemes ∧ racedTransaction i s = exec .listSchemes s) ∨
      (∃ sch, i = Instr.encodeOf sch i.operand ∧ racedTransaction i s = .next s.racedRespond) := by
  rcases instr_cases i with rfl | ⟨sch, h⟩
  · exact .inl ⟨rfl, rfl⟩
  · refine .inr ⟨sch, h, ?_⟩
    have hs : i.scheme? = some sch := by rw [h]; cases sch <;> rfl
    simp only [racedTransaction, hs, finishFrom_raced _ s (Work.captureRaced_raced sch)]

/-- What a step can do: finish the transaction in flight, stay idle, take a reset, refuse a reserved word, execute the
command taken, or answer one whose operand was rewritten. -/
theorem step_cases (s : State) :
    (∃ w, s.work = some w ∧ step s = .next (finishFrom w s)) ∨
    (s.work = none ∧ s.issued = [] ∧ step s = .next s) ∨
    (∃ rest, s.work = none ∧ s.issued = .reset :: rest ∧ step s = .next { s with issued := rest, work := none }) ∨
    (∃ a w inp rest w', s.work = none ∧ s.issued = a :: rest ∧ (a = .command w inp ∨ a = .racedCommand w) ∧
      decode w inp = .error (.reservedCommand w') ∧ step s = .refused (.reservedCommand w')) ∨
    (∃ w inp rest i, s.work = none ∧ s.issued = .command w inp :: rest ∧ decode w inp = .ok i ∧
      step s = exec i { s with issued := rest }) ∨
    (∃ w rest i, s.work = none ∧ s.issued = .racedCommand w :: rest ∧ decode w [] = .ok i ∧
      step s = racedTransaction i { s with issued := rest }) := by
  cases hw : s.work with
  | some w => left; exact ⟨w, rfl, by simp [step, hw]⟩
  | none =>
    right
    cases hi : s.issued with
    | nil => left; exact ⟨rfl, rfl, by simp [step, hw, takeAction, hi]⟩
    | cons a rest =>
      right
      cases a with
      | reset => left; exact ⟨rest, rfl, rfl, by simp [step, hw, takeAction, hi, State.resetBlock]⟩
      | command w inp =>
        right
        cases hd : decode w inp with
        | error r =>
          cases r with
          | reservedCommand w' =>
            left
            exact ⟨_, w, inp, rest, w', rfl, rfl, .inl rfl, hd, by simp [step, hw, takeAction, hi, hd, refusalOf]⟩
        | ok i => right; left; exact ⟨w, inp, rest, i, rfl, rfl, hd, by simp [step, hw, takeAction, hi, hd]⟩
      | racedCommand w =>
        right
        cases hd : decode w [] with
        | error r =>
          cases r with
          | reservedCommand w' =>
            left
            exact ⟨_, w, [], rest, w', rfl, rfl, .inr rfl, hd, by simp [step, hw, takeAction, hi, hd, refusalOf]⟩
        | ok i => right; right; exact ⟨w, rest, i, rfl, rfl, hd, by simp [step, hw, takeAction, hi, hd]⟩

end Machine

end Sys2Proof
end

