-- ==== Sys2Proof/Laws/PerInstr.lean ====
section
/-! SUPPORT. The family CommandWord: what the word of every command is, one lemma per constructor. -/

/-- The word of a command is no reserved word, and it decodes, with the command's operand beside it, to the command
(30_encoding.md R52). -/
def Sys2Proof.Laws.CommandWord.Statement (i : Sys2Proof.Instr) : Prop :=
  (Sys2Proof.encodeWord i).toNat ∈ [0, 1, 2, 3, 4, 5, 6, 8] ∧
    Sys2Proof.decode (Sys2Proof.encodeWord i) i.operand = .ok i

namespace Sys2Proof

theorem encodeWord_encodeOf (sch : SchemeId) (inp : List Char) :
    encodeWord (Instr.encodeOf sch inp) = 0#1 ++ codeOfScheme sch := by cases sch <;> rfl

theorem decode_encodeOf (sch : SchemeId) (inp : List Char) :
    decode (0#1 ++ codeOfScheme sch) inp = .ok (Instr.encodeOf sch inp) := by
  cases sch <;> simp [decode, codeOfScheme, opField, schemeField, schemeOfCode]

theorem decode_listSchemes (inp : List Char) : decode 0x8#4 inp = .ok .listSchemes := by
  simp [decode, opField, schemeField]

/-- What decoding can answer: the ENCODE of one scheme, LIST_SCHEMES, or a rejection of a reserved word. -/
theorem decode_cases (w : CommandWord) (inp : List Char) :
    (∃ sch, w = 0#1 ++ codeOfScheme sch ∧ decode w inp = .ok (Instr.encodeOf sch inp)) ∨
    (w = 0x8#4 ∧ decode w inp = .ok .listSchemes) ∨
    ((w = 0x7#4 ∨ 0x9#4 ≤ w) ∧ decode w inp = .error (.reservedCommand w)) := by
  have key : (∃ sch, w = 0#1 ++ codeOfScheme sch) ∨ w = 0x8#4 ∨
      ((w = 0x7#4 ∨ 0x9#4 ≤ w) ∧ (opField w = 0#1 → schemeOfCode (schemeField w) = none) ∧
        (opField w ≠ 0#1 → schemeField w ≠ 0#3)) := by
    have h : ∀ v : CommandWord, v = 0#4 ∨ v = 1#4 ∨ v = 2#4 ∨ v = 3#4 ∨ v = 4#4 ∨ v = 5#4 ∨ v = 6#4 ∨ v = 0x8#4 ∨
        ((v = 0x7#4 ∨ 0x9#4 ≤ v) ∧ (opField v = 0#1 → schemeOfCode (schemeField v) = none) ∧
          (opField v ≠ 0#1 → schemeField v ≠ 0#3)) := by decide
    rcases h w with h | h | h | h | h | h | h | h | h
    · exact .inl ⟨.nrzL, h⟩
    · exact .inl ⟨.nrzI, h⟩
    · exact .inl ⟨.bipolarAmi, h⟩
    · exact .inl ⟨.pseudoternary, h⟩
    · exact .inl ⟨.manchester, h⟩
    · exact .inl ⟨.differentialManchester, h⟩
    · exact .inl ⟨.b8zs, h⟩
    · exact .inr (.inl h)
    · exact .inr (.inr h)
  rcases key with ⟨sch, rfl⟩ | rfl | ⟨h, h0, h1⟩
  · exact .inl ⟨sch, rfl, decode_encodeOf sch inp⟩
  · exact .inr (.inl ⟨rfl, decode_listSchemes inp⟩)
  · refine .inr (.inr ⟨h, ?_⟩)
    unfold decode
    split
    · rename_i ho; simp [h0 ho]
    · rename_i ho; simp [h1 ho]

end Sys2Proof

theorem Sys2Proof.Laws.CommandWord.encodeNrzL (inp : List Char) :
    Sys2Proof.Laws.CommandWord.Statement (.encodeNrzL inp) :=
  ⟨show (0#1 ++ Sys2Proof.codeOfScheme .nrzL).toNat ∈ _ by decide, Sys2Proof.decode_encodeOf .nrzL inp⟩

theorem Sys2Proof.Laws.CommandWord.encodeNrzI (inp : List Char) :
    Sys2Proof.Laws.CommandWord.Statement (.encodeNrzI inp) :=
  ⟨show (0#1 ++ Sys2Proof.codeOfScheme .nrzI).toNat ∈ _ by decide, Sys2Proof.decode_encodeOf .nrzI inp⟩

theorem Sys2Proof.Laws.CommandWord.encodeBipolarAmi (inp : List Char) :
    Sys2Proof.Laws.CommandWord.Statement (.encodeBipolarAmi inp) :=
  ⟨show (0#1 ++ Sys2Proof.codeOfScheme .bipolarAmi).toNat ∈ _ by decide, Sys2Proof.decode_encodeOf .bipolarAmi inp⟩

theorem Sys2Proof.Laws.CommandWord.encodePseudoternary (inp : List Char) :
    Sys2Proof.Laws.CommandWord.Statement (.encodePseudoternary inp) :=
  ⟨show (0#1 ++ Sys2Proof.codeOfScheme .pseudoternary).toNat ∈ _ by decide, Sys2Proof.decode_encodeOf .pseudoternary inp⟩

theorem Sys2Proof.Laws.CommandWord.encodeManchester (inp : List Char) :
    Sys2Proof.Laws.CommandWord.Statement (.encodeManchester inp) :=
  ⟨show (0#1 ++ Sys2Proof.codeOfScheme .manchester).toNat ∈ _ by decide, Sys2Proof.decode_encodeOf .manchester inp⟩

theorem Sys2Proof.Laws.CommandWord.encodeDifferentialManchester (inp : List Char) :
    Sys2Proof.Laws.CommandWord.Statement (.encodeDifferentialManchester inp) :=
  ⟨show (0#1 ++ Sys2Proof.codeOfScheme .differentialManchester).toNat ∈ _ by decide, Sys2Proof.decode_encodeOf .differentialManchester inp⟩

theorem Sys2Proof.Laws.CommandWord.encodeB8zs (inp : List Char) :
    Sys2Proof.Laws.CommandWord.Statement (.encodeB8zs inp) :=
  ⟨show (0#1 ++ Sys2Proof.codeOfScheme .b8zs).toNat ∈ _ by decide, Sys2Proof.decode_encodeOf .b8zs inp⟩

theorem Sys2Proof.Laws.CommandWord.listSchemes : Sys2Proof.Laws.CommandWord.Statement .listSchemes :=
  ⟨by decide, Sys2Proof.decode_listSchemes []⟩
end

