-- ==== Sys2Proof/Laws/Safety.lean ====
section
/-! SUPPORT. What the predicates of the statements say, and how they meet the machine's own tests. -/

namespace Sys2Proof.Safety

open Sys2Proof.Machine

theorem validInput_iff (inp : List Char) : ValidInput inp ↔ inp ≠ [] ∧ ∀ c ∈ inp, c = '0' ∨ c = '1' := by
  simp [ValidInput]

theorem fits_iff (p : Params) (inp : List Char) : Fits p inp ↔ ∀ n, p.nMax = some n → inp.length ≤ n := by
  unfold Fits
  cases p.nMax <;> simp

theorem fits_iff_tooLong (p : Params) (inp : List Char) : Fits p inp ↔ tooLong p inp = false := by
  unfold Fits tooLong
  cases p.nMax <;> simp

@[simp] theorem bitsOf_length (inp : List Char) : (bitsOf inp).length = inp.length := by simp [bitsOf]

theorem bitsOf_append (a b : List Char) : bitsOf (a ++ b) = bitsOf a ++ bitsOf b := by simp [bitsOf]

@[simp] theorem answered_params (s : State) (r : Response) : (answered s r).params = s.params := rfl
@[simp] theorem answered_schemeTable (s : State) (r : Response) : (answered s r).schemeTable = s.schemeTable := rfl
@[simp] theorem answered_work (s : State) (r : Response) : (answered s r).work = none := rfl
@[simp] theorem answered_issued (s : State) (r : Response) : (answered s r).issued = s.issued := rfl
@[simp] theorem answered_responses (s : State) (r : Response) : (answered s r).responses = s.responses ++ [r] := rfl

theorem respond_eq_answered (s : State) (r : Response) : s.respond r = answered s r := rfl

end Sys2Proof.Safety
end

