-- ==== Sys2Proof/Tests/Slice0.lean ====
section
/-! SUPPORT. Tests: ill-formed terms, one word per command from the encoding of 30_encoding.md, the vectors of
95_test_vectors.md one step each, and for every statement with hypotheses a witness that meets them. -/

namespace Sys2Proof.Tests

open Sys2Proof.Machine Sys2Proof.Safety

/-- A candidate string from its digits, written as numbers; 2 stands for the character 'a'. -/
def chars (ds : List Nat) : List Char := ds.map (fun d => match d with | 0 => '0' | 1 => '1' | _ => 'a')

/-- Levels from the integers of the spec's tables. -/
def levels (xs : List Int) : List Level :=
  xs.map (fun x => if x = 1 then Level.pos else if x = 0 then Level.zero else Level.neg)

/-- Reset, with some actions issued. -/
def issuing (as : List HostAction) : State := { State.reset with issued := as }

/-- Reset, with one transaction issued. -/
def one (w : CommandWord) (ds : List Nat) : State := issuing [.command w (chars ds)]

/-- The last response after one step, if the step answers. -/
def lastResponse (s : State) : Option Response :=
  match step s with
  | .next t => t.responses.getLast?
  | .fault _ => none
  | .refused _ => none

/-- The samples after one step of one transaction. -/
def sigOf (w : CommandWord) (ds : List Nat) : Option (List Level) :=
  match lastResponse (one w ds) with
  | some (.ok e) => some e.sig
  | _ => none

/-- The refusal of one step, if it refuses. -/
def refusal (s : State) : Option Refusal :=
  match step s with
  | .refused r => some r
  | .next _ => none
  | .fault _ => none

/-- An instance with a finite N_MAX and an admissible index width. -/
def bounded (n w : Nat) : Params := { nMax := some n, idxWidth := some w, bufMap := none }

/-- Reset of an instance that accepts at most one character. -/
def tiny : State := { State.reset with params := bounded 1 1 }

/-- A transaction in flight at the start of a scan. -/
def midway : State := { State.reset with work := some (Work.capture .nrzI ['1']) }

/-! ### Well-formedness refuses ill-formed terms -/

theorem test_wf_refuses_wide_character : (Instr.encodeNrzL [Char.ofNat 0x2603]).wf = false := by decide
theorem test_wf_accepts_last_code : (Instr.encodeNrzL [Char.ofNat 0xFF]).wf = true := by decide
theorem test_wf_refuses_zero_n_max : (Params.default.nMaxPositive && (bounded 0 4).nMaxPositive) = false := by decide
theorem test_wf_refuses_narrow_index : (bounded 5 3).idxWide = false := by decide
theorem test_wf_refuses_width_without_bound : Params.idxWide { nMax := none, idxWidth := some 8, bufMap := none } = false := by
  decide
theorem test_wf_accepts_just_wide_enough : (bounded 4 3).wf = true := by decide

/-! ### One word per command, written out from R50: bit 3 op, bits 2 to 0 scheme -/

theorem test_decode_NrzL : decode 0b0000#4 ['1'] = .ok (.encodeNrzL ['1']) := by decide
theorem test_decode_NrzI : decode 0b0001#4 ['1'] = .ok (.encodeNrzI ['1']) := by decide
theorem test_decode_BipolarAmi : decode 0b0010#4 ['1'] = .ok (.encodeBipolarAmi ['1']) := by decide
theorem test_decode_Pseudoternary : decode 0b0011#4 ['1'] = .ok (.encodePseudoternary ['1']) := by decide
theorem test_decode_Manchester : decode 0b0100#4 ['1'] = .ok (.encodeManchester ['1']) := by decide
theorem test_decode_DifferentialManchester : decode 0b0101#4 ['1'] = .ok (.encodeDifferentialManchester ['1']) := by decide
theorem test_decode_B8zs : decode 0b0110#4 ['1'] = .ok (.encodeB8zs ['1']) := by decide
theorem test_decode_listSchemes : decode 0b1000#4 ['a'] = .ok .listSchemes := by decide
theorem test_decode_reserved_7 : decode 0b0111#4 ['1'] = .error (.reservedCommand 0x7#4) := by decide
theorem test_decode_reserved_9 : decode 0b1001#4 [] = .error (.reservedCommand 0x9#4) := by decide
theorem test_decode_reserved_15 : decode 0b1111#4 [] = .error (.reservedCommand 0xF#4) := by decide
/-- 30_encoding.md R61: `ENCODE NRZ-I, "0101"` encodes to 0x1 with operand 30 31 30 31. -/
theorem test_encode_r61 :
    encode (.encodeNrzI (chars [0, 1, 0, 1])) = (0x1#4, [0x30#8, 0x31#8, 0x30#8, 0x31#8]) := by decide
theorem test_table_word_b8zs : decodeTableWord 8 6 = some (.encodeB8zs []) := by decide
theorem test_table_word_reserved : decodeTableWord 8 7 = none := by decide
theorem test_fetch_word_runs :
    lastResponse (State.reset.withFetchWord 8 8) = some (.schemeList schemeTableConst) := by decide
theorem test_text_nrzL : commandText (.encodeNrzL ['2']) =
    ['E', 'N', 'C', 'O', 'D', 'E', ' ', 'N', 'R', 'Z', '-', 'L', ',', ' ', '"', '2', '"'] := by decide

/-! ### The vectors of 95_test_vectors.md, one step each -/

/-- §2.1. -/
theorem test_nrzL_0110 : sigOf 0x0#4 [0, 1, 1, 0] = some (levels [1, 1, -1, -1, -1, -1, 1, 1]) := by decide
/-- §2.1. -/
theorem test_nrzL_10 : sigOf 0x0#4 [1, 0] = some (levels [-1, -1, 1, 1]) := by decide
/-- S2. -/
theorem test_nrzI_0101 : sigOf 0x1#4 [0, 1, 0, 1] = some (levels [-1, -1, 1, 1, 1, 1, -1, -1]) := by decide
/-- §2.2. -/
theorem test_nrzI_1101 : sigOf 0x1#4 [1, 1, 0, 1] = some (levels [1, 1, -1, -1, -1, -1, 1, 1]) := by decide
/-- S3. -/
theorem test_ami_0110 : sigOf 0x2#4 [0, 1, 1, 0] = some (levels [0, 0, 1, 1, -1, -1, 0, 0]) := by decide
/-- §2.3. -/
theorem test_ami_10101 : sigOf 0x2#4 [1, 0, 1, 0, 1] = some (levels [1, 1, 0, 0, -1, -1, 0, 0, 1, 1]) := by decide
/-- S4. -/
theorem test_pt_0110 : sigOf 0x3#4 [0, 1, 1, 0] = some (levels [1, 1, 0, 0, 0, 0, -1, -1]) := by decide
/-- §2.4. -/
theorem test_pt_01010 : sigOf 0x3#4 [0, 1, 0, 1, 0] = some (levels [1, 1, 0, 0, -1, -1, 0, 0, 1, 1]) := by decide
/-- S5. -/
theorem test_manchester_10 : sigOf 0x4#4 [1, 0] = some (levels [-1, 1, 1, -1]) := by decide
/-- §2.5. -/
theorem test_manchester_0011 : sigOf 0x4#4 [0, 0, 1, 1] = some (levels [1, -1, 1, -1, -1, 1, -1, 1]) := by decide
/-- S6. -/
theorem test_dm_00 : sigOf 0x5#4 [0, 0] = some (levels [1, -1, -1, 1]) := by decide
/-- §2.6. -/
theorem test_dm_1011 : sigOf 0x5#4 [1, 0, 1, 1] = some (levels [1, -1, 1, -1, -1, 1, -1, 1]) := by decide
/-- §2.7: the levels of the table, doubled. -/
theorem test_b8zs_minus_block : sigOf 0x6#4 [1, 0, 0, 0, 0, 0, 0, 0, 0, 1, 0, 0, 0, 0, 0, 0, 0, 0] =
    some (expand (levels [1, 0, 0, 0, 1, 0, -1, 1, -1, -1, 0, 0, 0, -1, 0, 1, -1, 1])) := by decide
/-- §2.7: the levels of the table, doubled. -/
theorem test_b8zs_nine_zeros : sigOf 0x6#4 [0, 0, 0, 0, 0, 0, 0, 0, 0] =
    some (expand (levels [0, 0, 0, -1, 0, 1, -1, 1, 0])) := by decide
/-- §2.8. -/
theorem test_lone_zero_axis : lastResponse (one 0x0#4 [0]) =
    some (.ok { sig := levels [1, 1], tax := [0, 1], bits := [.zero] }) := by decide
/-- §2.8: the operand is not read. -/
theorem test_list_schemes : lastResponse (one 0x8#4 [2]) = some (.schemeList
    [.nrzL, .nrzI, .bipolarAmi, .pseudoternary, .manchester, .differentialManchester, .b8zs]) := by decide
/-- S8. -/
theorem test_empty_is_error : lastResponse (one 0x4#4 []) = some (.err .invalidInput) := by decide
/-- S8. -/
theorem test_bad_character_is_error : lastResponse (one 0x6#4 [0, 1, 2, 0]) = some (.err .invalidInput) := by decide
/-- §2.8. -/
theorem test_reserved_is_refused : refusal (one 0x7#4 [0, 1, 1, 0]) = some (.reservedCommand 0x7#4) := by decide
/-- R9, at the bound and one above it. -/
theorem test_n_max : refusal { tiny with issued := [.command 0x0#4 ['0', '0']] } = some .tooLong ∧
    refusal { tiny with issued := [.command 0x0#4 ['0']] } = none := by decide
/-- R38: element 5 of 2-bit elements, 4 to a word, stands at bits 3 to 2 of word 1. -/
theorem test_packed_element : packedElement 2 4 8 [0x00#8, 0b00001100#8] 5 = some 0b11#2 := by decide

/-- R115, on the step from issue to start: the second of two issued strings is the one rewritten. -/
theorem test_race_marks_its_transaction :
    (disturb false (.hostWritesIssued 1) (issuing [.command 0x0#4 ['0'], .command 0x1#4 ['1']])).issued =
      [.command 0x0#4 ['0'], .racedCommand 0x1#4] := by decide
/-- R46: a captured operand is not touched. -/
theorem test_no_race_where_captured : disturb true .hostWritesInput midway = midway := by decide

/-! ### Witnesses: for every statement with hypotheses, values that meet them all -/

theorem witness_ReservedWordsAreRefused :
    (one 0x7#4 []).work = none ∧ (one 0x7#4 []).issued = .command 0x7#4 [] :: [] ∧
    (one 0x9#4 []).issued = .command 0x9#4 [] :: [] ∧ (0x7#4 = 0x7#4 ∨ 0x9#4 ≤ 0x7#4) ∧
    (0x9#4 = 0x7#4 ∨ 0x9#4 ≤ 0x9#4) ∧ (0xF#4 = 0x7#4 ∨ 0x9#4 ≤ 0xF#4) := by decide
theorem witness_CommandWordsDecode : Reserved 0x7#4 ∧ Reserved 0x9#4 ∧ Reserved 0xF#4 ∧ ¬ Reserved 0x8#4 := by decide
theorem witness_StepRunsDecodedCommand : (one 0x1#4 [1]).work = none ∧
    (one 0x1#4 [1]).issued = .command 0x1#4 ['1'] :: [] ∧ decode 0x1#4 ['1'] = .ok (.encodeNrzI ['1']) := by decide
theorem witness_StepWithoutCommand_idle : State.reset.work = none ∧ State.reset.issued = [] := by decide
theorem witness_StepWithoutCommand_in_flight : midway.work ≠ none := by decide
theorem witness_ByteEncodingRoundTrip : (Instr.encodeB8zs ['0', 'a', Char.ofNat 0xFF]).wf = true := by decide
theorem witness_DecodedWordIsEncodedWord : decode 0x6#4 ['a'] = .ok (.encodeB8zs ['a']) ∧
    decode 0x8#4 ['a'] = .ok .listSchemes := by decide
theorem witness_NrzLEncodes : ValidInput ['0'] ∧ Fits tiny.params ['0'] := by decide
theorem witness_NrzIEncodes : ValidInput ['0'] ∧ Fits tiny.params ['0'] := by decide
theorem witness_BipolarAmiEncodes : ValidInput ['0'] ∧ Fits tiny.params ['0'] := by decide
theorem witness_PseudoternaryEncodes : ValidInput ['0'] ∧ Fits tiny.params ['0'] := by decide
theorem witness_ManchesterEncodes : ValidInput ['0'] ∧ Fits tiny.params ['0'] := by decide
theorem witness_DifferentialManchesterEncodes : ValidInput ['0'] ∧ Fits tiny.params ['0'] := by decide
theorem witness_B8zsEncodes : ValidInput ['0'] ∧ Fits tiny.params ['0'] := by decide
theorem witness_NrzLClosedForm : ValidInput ['0'] ∧ Fits tiny.params ['0'] ∧ (bitsOf ['0'])[0]? = some .zero := by decide
theorem witness_NrzIClosedForm : ValidInput ['0'] ∧ Fits tiny.params ['0'] ∧ 0 < ['0'].length := by decide
theorem witness_BipolarAmiClosedForm : ValidInput ['0'] ∧ Fits tiny.params ['0'] ∧ 0 < ['0'].length := by decide
theorem witness_ManchesterClosedForm : ValidInput ['0'] ∧ Fits tiny.params ['0'] ∧
    (bitsOf ['0'])[0]? = some .zero ∧ ValidInput ['1', '0'] ∧ Fits State.reset.params ['1', '0'] ∧
    0 + 1 < ['1', '0'].length := by decide
theorem witness_DifferentialManchesterClosedForm : ValidInput ['0'] ∧ Fits tiny.params ['0'] ∧ 0 < ['0'].length ∧
    ValidInput ['1', '0'] ∧ Fits State.reset.params ['1', '0'] ∧ 0 + 1 < ['1', '0'].length := by decide
theorem witness_B8zsOnesAlternate : ValidInput ['0'] ∧ Fits tiny.params ['0'] ∧
    ValidInput ['1'] ∧ Fits tiny.params ['1'] ∧ ['1'][0]? = some '1' := by decide
theorem witness_ResultLengths : ValidInput ['0'] ∧ Fits tiny.params ['0'] := by decide
theorem witness_StepPropertyOrMidBitTransition : ValidInput ['0'] ∧ Fits tiny.params ['0'] ∧
    0 < ['0'].length := by decide
theorem witness_TimeAxisOfEveryResult : ValidInput ['0'] ∧ Fits tiny.params ['0'] := by decide
theorem witness_BipolarAmiHasNoViolation : ValidInput ['1', '0', '1'] ∧ Fits State.reset.params ['1', '0', '1'] ∧
    (resultOf .bipolarAmi ['1', '0', '1']).sig[2 * 0]? = some .pos ∧
    (resultOf .bipolarAmi ['1', '0', '1']).sig[2 * 2]? = some .neg ∧
    (resultOf .bipolarAmi ['1', '0', '1']).sig[2 * 1]? = some .zero := by decide
theorem witness_PseudoternaryIsAmiOfFlippedBits : ValidInput ['0', '1'] ∧ ValidInput ['1', '0'] ∧
    Fits State.reset.params ['0', '1'] ∧ bitsOf ['1', '0'] = (bitsOf ['0', '1']).map Bit.flip := by decide
theorem witness_DifferentialManchesterHidesLastBit :
    (∀ c ∈ ([] : List Char), c = '0' ∨ c = '1') ∧ Fits tiny.params ([] ++ ['0']) ∧
    (∀ c ∈ ['1', '0'], c = '0' ∨ c = '1') ∧ Fits State.reset.params (['1', '0'] ++ ['0']) :=
  ⟨by simp, by decide, by simp, by decide⟩
theorem witness_B8zsZeroRun_whole_blocks :
    ValidInput (['1'] ++ List.replicate 16 '0' ++ ['1']) ∧
    Fits State.reset.params (['1'] ++ List.replicate 16 '0' ++ ['1']) ∧
    (['1'] = [] ∨ ['1'].getLast? = some '1') ∧ (['1'] = [] ∨ ['1'].head? = some '1') ∧ 15 < 16 := by decide
theorem witness_B8zsZeroRun_remainder :
    ValidInput ([] ++ List.replicate 9 '0' ++ []) ∧ Fits State.reset.params ([] ++ List.replicate 9 '0' ++ []) ∧
    (([] : List Char) = [] ∨ ([] : List Char).getLast? = some '1') ∧ 8 < 9 ∧ ¬ 8 < 8 * (9 / 8) := by decide
theorem witness_B8zsWithoutZeroRunIsAmi : ValidInput (List.replicate 7 '0') ∧
    Fits State.reset.params (List.replicate 7 '0') ∧ ¬ List.replicate 8 '0' <:+: List.replicate 7 '0' := by decide
theorem witness_TwoLevelSchemesNeverGiveZero : ValidInput ['0'] ∧ Fits tiny.params ['0'] ∧
    SchemeId.differentialManchester ∈ [SchemeId.nrzL, .nrzI, .manchester, .differentialManchester] := by decide
theorem witness_ListSchemesReturnsTable : State.reset.schemeTable = schemeTableConst := by decide
theorem witness_SchemeListCodes : midway.schemeTable = schemeTableConst := by decide
theorem witness_ValidationIsExact : ValidInput ['1'] ∧ ¬ ValidInput [] ∧ ¬ ValidInput ['1', 'a'] := by decide
theorem witness_InvalidInputAnswersError : Fits tiny.params [] ∧ ¬ ValidInput [] ∧ Fits tiny.params ['a'] ∧
    ¬ ValidInput ['a'] := by decide
theorem witness_InvalidInputAnswersError_next : exec .listSchemes State.reset =
    .next (answered State.reset (.schemeList schemeTableConst)) ∧
    (answered State.reset (.schemeList schemeTableConst)).responses =
      State.reset.responses ++ [.schemeList schemeTableConst] := ⟨rfl, rfl⟩
theorem witness_InvalidInputAnswersError_micro : (Work.capture .b8zs ['a']).stage = .validate ∧
    (Work.capture .b8zs ['a']).inp = ['a'] ∧ (Work.capture .b8zs ['a']).raced = false := by decide
theorem witness_ErrorOnlyForInvalidInput : exec (.encodeNrzL []) State.reset =
    .next (answered State.reset (.err .invalidInput)) ∧
    (answered State.reset (.err .invalidInput)).responses = State.reset.responses ++ [.err .invalidInput] := ⟨rfl, rfl⟩
theorem witness_OperandLengthBound : tiny.params.nMax = some 1 ∧ 1 < ['0', '0'].length ∧
    State.reset.params.nMax = none ∧ 1 ≤ ['0'].length := by decide
theorem witness_ChecksInOrder_reserved : (one 0x7#4 []).work = none ∧ (one 0x7#4 []).issued = .command 0x7#4 [] :: [] ∧
    Reserved 0x7#4 ∧ ¬ 0x7#4 ≤ 0x6#4 := by decide
theorem witness_ChecksInOrder_too_long : 0x6#4 ≤ 0x6#4 ∧ ¬ Fits tiny.params ['a', 'a'] ∧ ¬ Reserved 0x6#4 := by decide
theorem witness_ChecksInOrder_invalid : 0x0#4 ≤ 0x6#4 ∧ Fits tiny.params ['a'] ∧ ¬ ValidInput ['a'] := by decide
theorem witness_ChecksInOrder_encodes : 0x6#4 ≤ 0x6#4 ∧ Fits tiny.params ['0'] ∧ ValidInput ['0'] := by decide
theorem witness_CommandFrame : State.reset.schemeTable = schemeTableConst ∧
    exec .listSchemes State.reset = .next (answered State.reset (.schemeList schemeTableConst)) := ⟨rfl, rfl⟩
theorem witness_SchemeTableIsConstant : step State.reset = .next State.reset := rfl
theorem witness_ResponseDependsOnlyOnCommand : State.reset.params.nMax = midway.params.nMax ∧
    State.reset.schemeTable = midway.schemeTable ∧
    exec .listSchemes State.reset = .next (answered State.reset (.schemeList schemeTableConst)) := ⟨rfl, rfl, rfl⟩
theorem witness_EncodingTwiceIsIdentical :
    (issuing [.command 0x8#4 [], .command 0x8#4 []]).issued = .command 0x8#4 [] :: .command 0x8#4 [] :: [] ∧
    (issuing [.command 0x8#4 [], .command 0x8#4 []]).work = none ∧
    step (issuing [.command 0x8#4 [], .command 0x8#4 []]) =
      .next (answered (issuing [.command 0x8#4 []]) (.schemeList schemeTableConst)) := ⟨rfl, rfl, rfl⟩
theorem witness_RegistersStartFresh : (one 0x5#4 [1]).work = none ∧ (one 0x5#4 [1]).issued =
    .command (0#1 ++ codeOfScheme .differentialManchester) ['1'] :: [] ∧ Fits (one 0x5#4 [1]).params ['1'] := by decide
theorem witness_RegistersStartFresh_after : step (one 0x8#4 []) =
    .next (answered State.reset (.schemeList schemeTableConst)) ∧ State.reset.work = none := ⟨rfl, rfl⟩
theorem witness_StepKeepsInvariant : Inv State.reset ∧ step State.reset = .next State.reset :=
  ⟨⟨by decide, rfl, rfl, ⟨(fun a ha => nomatch ha), (fun w hw => nomatch hw)⟩, fun r hr => nomatch hr⟩, rfl⟩
theorem witness_MicroStepKeepsInvariant : MicroInv midway ∧
    microStep midway = .next (midway.withWork (((Work.capture .nrzI ['1']).setB [.one]).setStage .encode)) :=
  ⟨⟨rfl, ⟨(fun a ha => nomatch ha), fun w hw => by cases hw; rfl⟩, fun w hw => by cases hw; rfl, fun r hr => nomatch hr⟩, rfl⟩
theorem witness_MicroStepsReachStep : step State.reset = .next State.reset ∧
    step (one 0x7#4 []) = .refused (.reservedCommand 0x7#4) := ⟨rfl, rfl⟩
theorem witness_TransactionsAnswerInOrder :
    (issuing [.command 0x8#4 [], .command 0x0#4 []]).work = none ∧
    (issuing [.command 0x8#4 [], .command 0x0#4 []]).schemeTable = schemeTableConst ∧
    (issuing [.command 0x8#4 [], .command 0x0#4 []]).issued =
      [((0x8#4 : CommandWord), ([] : List Char)), (0x0#4, [])].map (fun x => HostAction.command x.1 x.2) ∧
    [((0x8#4 : CommandWord), ([] : List Char)), (0x0#4, [])].map (fun x => transact Params.default x.1 x.2) =
      [Response.schemeList schemeTableConst, .err .invalidInput].map some := by decide
theorem witness_ResetBetweenChangesNothing : (issuing [.reset]).work = none ∧
    (issuing [.reset]).issued = .reset :: [] := by decide
theorem witness_ResetInFlightLeavesNothing : (one 0x1#4 []).work = none ∧
    (one 0x1#4 []).issued = .command 0x1#4 [] :: [] ∧
    microRun (0 + 1) (one 0x1#4 []) = .next (State.reset.withWork (Work.capture .nrzI [])) ∧
    (State.reset.withWork (Work.capture .nrzI [])).work ≠ none ∧
    (State.reset.withWork (Work.capture .nrzI [])).issued = [] ∧
    (State.reset.withWork (Work.capture .nrzI [])).responses = (one 0x1#4 []).responses ∧
    step (one 0x1#4 []) = .next (answered State.reset (.err .invalidInput)) :=
  ⟨rfl, rfl, rfl, by decide, rfl, rfl, rfl⟩
theorem witness_HostWriteDuringTransaction_in_flight : midway.work ≠ none := by decide
theorem witness_HostWriteDuringTransaction_encode : (one 0x6#4 [1]).work = none ∧
    (one 0x6#4 [1]).issued = .command 0x6#4 ['1'] :: [] ∧ 0x6#4 ≤ 0x6#4 := by decide
theorem witness_HostWriteDuringTransaction_other : (one 0x7#4 [1]).work = none ∧
    (one 0x7#4 [1]).issued = .command 0x7#4 ['1'] :: [] ∧ ¬ 0x7#4 ≤ 0x6#4 := by decide
theorem witness_HostWriteRacesOnlyItsTransaction :
    (issuing [.command 0x8#4 [], .command 0x0#4 ['1']]).work = none ∧
    (issuing [.command 0x8#4 [], .command 0x0#4 ['1']]).issued = .command 0x8#4 [] :: [.command 0x0#4 ['1']] ∧
    step (issuing [.command 0x8#4 [], .command 0x0#4 ['1']]) =
      .next (answered (issuing [.command 0x0#4 ['1']]) (.schemeList schemeTableConst)) := ⟨rfl, rfl, rfl⟩
theorem witness_ResponseStatus : step (one 0x7#4 []) = .refused (.reservedCommand 0x7#4) := rfl
theorem witness_PackedElementsReadBack : 0 < 3 ∧ 2 * 3 ≤ 6 ∧ 2 * 3 ≤ 8 ∧ 3 < [0b01#2, 0b11#2, 0b00#2, 0b01#2].length := by decide
theorem witness_TimeAxisFitsIndexWidth : tiny.params.wf = true ∧ ValidInput ['0'] ∧ Fits tiny.params ['0'] := by decide
theorem witness_NarrowLookaheadTestIsExact : (bounded 8 4).wf = true ∧ (bounded 8 4).nMax = some 8 ∧
    (bounded 8 4).idxWidth = some 4 ∧ 0 ≤ 8 ∧ 8 ≤ 8 := by decide
theorem witness_InstancesAreIndependent : 0 ≠ 1 ∧
    stepInstance 0 [one 0x8#4 [], State.reset] =
      .next [answered State.reset (.schemeList schemeTableConst), State.reset] ∧
    stepInstance 1 [one 0x8#4 [], State.reset] = .next [one 0x8#4 [], State.reset] := ⟨by decide, rfl, rfl⟩

end Sys2Proof.Tests
end

section
/-! PROOF. The bound on the operand's length (00_scope.md R9): an operand that does not fit is refused, and one that fits
is answered, whatever its characters. -/

namespace Sys2Proof.Safety

open Sys2Proof.Machine

theorem not_fits_of_lt {p : Params} {n : Nat} {inp : List Char} (hn : p.nMax = some n) (hlt : n < inp.length) :
    ¬ Fits p inp :=
  fun hf => absurd ((fits_iff p inp).mp hf n hn) (Nat.not_le.mpr hlt)

theorem fits_of_unbounded {p : Params} (h : p.nMax = none) (inp : List Char) : Fits p inp := by
  simp [fits_iff, h]

theorem exec_encodeOf_of_not_fits (sch : SchemeId) {inp : List Char} {s : State} (h : ¬ Fits s.params inp) :
    exec (Instr.encodeOf sch inp) s = .refused .tooLong := by
  have ht : tooLong s.params inp = true := by simpa [fits_iff_tooLong] using h
  simp [exec_encodeOf, encodeTransaction, ht]

theorem exec_encodeOf_of_fits (sch : SchemeId) {inp : List Char} {s : State} (h : Fits s.params inp) :
    ∃ r, exec (Instr.encodeOf sch inp) s = .next (answered s r) := by
  have ht : tooLong s.params inp = false := (fits_iff_tooLong s.params inp).mp h
  obtain ⟨r, hr⟩ := finishFrom_responds (Work.capture sch inp) s
  exact ⟨r, by simp [exec_encodeOf, encodeTransaction, ht, hr, respond_eq_answered]⟩

/-- Settles O20: with a finite `N_MAX` a longer operand does not fit, and with an unbounded one every operand does. The
premise that the operand is not empty is not needed, since the empty string is answered too, with the error. -/
theorem operandLengthBound : Obligations.OperandLengthBound := by
  intro s sch inp
  constructor
  · intro n hn hlt
    exact exec_encodeOf_of_not_fits sch (not_fits_of_lt hn hlt)
  · intro hn _
    exact exec_encodeOf_of_fits sch (fits_of_unbounded hn inp)

end Sys2Proof.Safety
end

section
/-! PROOF. What a response depends on and what a step keeps (10_state.md R18, R19): a command is answered from its operand
and the table alone, and no step writes the table. -/

namespace Sys2Proof.Safety

open Sys2Proof.Machine

/-- The response that finishing a transaction adds, where its operand was not rewritten, is settled by its working
registers before any state is given. -/
theorem finishFrom_eq_unlessRaced (w : Work) :
    ∃ r, ∀ s, finishFrom w s = s.unlessRaced w.raced (s.respond r) := by
  unfold finishFrom
  cases w.stage
  case validate =>
    rcases validate_cases w.inp with ⟨-, -, hv⟩ | ⟨-, hv⟩
    · exact ⟨_, fun s => by simp only [finishValidate, hv]; exact finishEncode_eq (w.setB _) s⟩
    · exact ⟨.err .invalidInput, fun s => by simp only [finishValidate, hv, State.raiseInvalidInput]⟩
  case encode => exact ⟨_, finishEncode_eq w⟩
  all_goals exact ⟨_, fun _ => rfl⟩

/-- An ENCODE that is not refused has one response for all states. -/
theorem exec_encodeOf_answer (sch : SchemeId) (inp : List Char) :
    ∃ r, ∀ s, Fits s.params inp → exec (Instr.encodeOf sch inp) s = .next (answered s r) := by
  obtain ⟨r, hr⟩ := finishFrom_eq_unlessRaced (Work.capture sch inp)
  refine ⟨r, fun s hf => ?_⟩
  have ht : tooLong s.params inp = false := (fits_iff_tooLong s.params inp).mp hf
  simp [exec_encodeOf, encodeTransaction, ht, hr, respond_eq_answered]

theorem exec_listSchemes (s : State) : exec .listSchemes s = .next (answered s (.schemeList s.schemeTable)) := rfl

theorem fits_congr {p p' : Params} (h : p.nMax = p'.nMax) (inp : List Char) : Fits p inp ↔ Fits p' inp := by
  simp only [fits_iff, h]

/-- Settles O24: the operand fits both states or neither, so an ENCODE has one response in both, and LIST_SCHEMES
answers with the table, which is the same. -/
theorem responseDependsOnlyOnCommand : Obligations.ResponseDependsOnlyOnCommand := by
  intro s s' t i hn htab h
  rcases instr_cases i with rfl | ⟨sch, hi⟩
  · rw [exec_listSchemes] at h
    cases h
    exact ⟨_, rfl, by rw [exec_listSchemes, htab]⟩
  · rw [hi] at h ⊢
    by_cases hf : Fits s.params i.operand
    · obtain ⟨r, hr⟩ := exec_encodeOf_answer sch i.operand
      rw [hr s hf] at h
      cases h
      exact ⟨r, rfl, hr s' ((fits_congr hn _).mp hf)⟩
    · rw [exec_encodeOf_of_not_fits sch hf] at h
      cases h

theorem exec_next_answered {i : Instr} {s t : State} (h : exec i s = .next t) : ∃ r, t = answered s r := by
  obtain ⟨r, hr, -⟩ := responseDependsOnlyOnCommand s s t i rfl rfl h
  exact ⟨r, hr⟩

theorem exec_schemeTable {i : Instr} {s t : State} (h : exec i s = .next t) : t.schemeTable = s.schemeTable := by
  obtain ⟨r, rfl⟩ := exec_next_answered h
  rfl

theorem racedTransaction_schemeTable {i : Instr} {s t : State} (h : racedTransaction i s = .next t) :
    t.schemeTable = s.schemeTable := by
  rcases racedTransaction_cases i s with ⟨-, hs⟩ | ⟨_, -, hs⟩ <;> rw [hs] at h
  · exact exec_schemeTable h
  · cases h
    rfl

theorem step_schemeTable {s t : State} (h : step s = .next t) : t.schemeTable = s.schemeTable := by
  rcases step_cases s with ⟨w, -, hs⟩ | ⟨-, -, hs⟩ | ⟨_, -, -, hs⟩ | ⟨_, _, _, _, _, -, -, -, -, hs⟩ |
    ⟨_, _, _, _, -, -, -, hs⟩ | ⟨_, _, _, -, -, -, hs⟩ <;> rw [hs] at h
  · obtain ⟨r, hr⟩ := finishFrom_responds w s
    cases h
    rw [hr, State.respond_schemeTable]
  · cases h
    rfl
  · cases h
    rfl
  · cases h
  · exact (exec_schemeTable h :)
  · exact (racedTransaction_schemeTable h :)

/-- Settles O23: the table at reset is a small closed fact, and every step keeps it. -/
theorem schemeTableIsConstant : Obligations.SchemeTableIsConstant :=
  ⟨rfl, by decide, fun _ _ => step_schemeTable, State.resetBlock_schemeTable, exec_listSchemes⟩

end Sys2Proof.Safety
end

section
/-! PROOF. The reserved command words (30_encoding.md R52, R53): no command has one, each is rejected whatever the operand
beside it, and a transaction with one is refused. -/

namespace Sys2Proof.Safety

open Sys2Proof.Machine

theorem not_reserved_encode_word (sch : SchemeId) : ¬ Reserved (0#1 ++ codeOfScheme sch) := by
  cases sch <;> decide

theorem decode_of_reserved {w : CommandWord} (h : Reserved w) (inp : List Char) :
    decode w inp = .error (.reservedCommand w) := by
  rcases decode_cases w inp with ⟨sch, rfl, -⟩ | ⟨rfl, -⟩ | ⟨-, hd⟩
  · exact absurd h (not_reserved_encode_word sch)
  · exact absurd h (by decide)
  · exact hd

theorem step_of_decode_error {s : State} {w : CommandWord} {inp : List Char} {rest : List HostAction} {r : Reject}
    (hwork : s.work = none) (hissued : s.issued = .command w inp :: rest) (hd : decode w inp = .error r) :
    step s = .refused (refusalOf r) := by
  simp [step, hwork, takeAction, hissued, hd]

/-- Settles O1: word 0 to 6 is `op` 0 above the code of its scheme, and a reserved word is neither such a word nor 8. -/
theorem commandWordsDecode : Obligations.CommandWordsDecode := fun inp =>
  ⟨decode_encodeOf .nrzL inp, decode_encodeOf .nrzI inp, decode_encodeOf .bipolarAmi inp,
    decode_encodeOf .pseudoternary inp, decode_encodeOf .manchester inp, decode_encodeOf .differentialManchester inp,
    decode_encodeOf .b8zs inp, decode_listSchemes inp, fun _ hw => decode_of_reserved hw inp⟩

/-- Settles O2: the word does not decode, and the step refuses with the word the decoder names. -/
theorem reservedWordsAreRefused : Obligations.ReservedWordsAreRefused :=
  fun _ _ inp _ hwork hissued hw => step_of_decode_error hwork hissued (decode_of_reserved hw inp)

end Sys2Proof.Safety
end

section
/-! PROOF. The wire form of a response (30_encoding.md R58, R59): its status, and the codes of the scheme list. -/

namespace Sys2Proof.Safety

open Sys2Proof.Machine

theorem wireOf_status (p : Params) (r : Response) : (wireOf p r).status = statusCode (statusOf r) := by
  cases r <;> rfl

theorem wireOf_err (p : Params) (k : ErrorKind) :
    wireOf p (.err k) = { status := 1, sig := [], tax := [], bits := [], schemes := [] } := by
  cases k
  rfl

theorem wireOf_schemeList_schemes (p : Params) (l : List SchemeId) :
    (wireOf p (.schemeList l)).schemes = l.map codeOfScheme := rfl

theorem schemeTableConst_codes : schemeTableConst.map codeOfScheme = [0#3, 1#3, 2#3, 3#3, 4#3, 5#3, 6#3] := by decide

/-- Settles O53: the status is the code of the response's kind, and a step that refuses is not one that has a next
state. -/
theorem responseStatus : Obligations.ResponseStatus := by
  intro p e l k
  refine ⟨wireOf_status p (.ok e), wireOf_status p (.schemeList l), wireOf_err p k, ?_⟩
  rintro s r hrefused ⟨t, hnext⟩
  rw [hrefused] at hnext
  cases hnext

/-- Settles O54: LIST_SCHEMES answers with the table of the state, which is the constant one, and entry i of that has the
code i. -/
theorem schemeListCodes : Obligations.SchemeListCodes := by
  intro s htable
  refine ⟨schemeTableConst, ?_, by decide, rfl, ?_⟩
  · rw [exec_listSchemes, htable]
  · rw [wireOf_schemeList_schemes, schemeTableConst_codes]

end Sys2Proof.Safety
end

section
/-! PROOF. The validation of an operand and the answer of LIST_SCHEMES (40_pipeline.md R64, R75). -/

namespace Sys2Proof.Safety

open Sys2Proof.Machine

theorem map_bitOfChar_eq_bitsOf (inp : List Char) : inp.map bitOfChar = bitsOf inp := rfl

theorem validate_of_validInput {inp : List Char} (h : ValidInput inp) : validate inp = .ok (bitsOf inp) := by
  rcases validate_cases inp with ⟨-, -, hv⟩ | ⟨hinvalid, -⟩
  · rw [hv, map_bitOfChar_eq_bitsOf]
  · exact absurd ((validInput_iff inp).mp h) hinvalid

theorem validate_of_not_validInput {inp : List Char} (h : ¬ ValidInput inp) :
    validate inp = .error .invalidInput := by
  rcases validate_cases inp with ⟨hne, hchars, -⟩ | ⟨-, hv⟩
  · exact absurd ((validInput_iff inp).mpr ⟨hne, hchars⟩) h
  · exact hv

/-- Settles O17: the two ways a validation can end, of which a valid string excludes the one and an invalid string the
other. -/
theorem validationIsExact : Obligations.ValidationIsExact :=
  fun _ => ⟨validate_of_validInput, validate_of_not_validInput⟩

theorem wireOf_schemeList (p : Params) (l : List SchemeId) :
    wireOf p (.schemeList l) =
      { status := 0, sig := [], tax := [], bits := [], schemes := l.map codeOfScheme } := rfl

/-- Settles O16: the list that the statement writes out is the constant table, which the state holds by the premise. -/
theorem listSchemesReturnsTable : Obligations.ListSchemesReturnsTable := by
  intro s inp htable
  refine ⟨decode_listSchemes inp, ?_, ?_⟩
  · rw [exec_listSchemes, htable, schemeTableConst]
  · rw [wireOf_schemeList, ← schemeTableConst, schemeTableConst_codes]

end Sys2Proof.Safety
end

section
/-! PROOF. The checks of a transaction in their order (60_exceptions.md R100): the reserved word, the operand's length,
the operand's characters, and only then the encoding. -/

namespace Sys2Proof.Safety

open Sys2Proof.Machine

theorem exists_scheme_of_le {w : CommandWord} (h : w ≤ 0x6#4) : ∃ sch, w = 0#1 ++ codeOfScheme sch := by
  rcases decode_cases w [] with ⟨sch, hw, -⟩ | ⟨rfl, -⟩ | ⟨hreserved, -⟩
  · exact ⟨sch, hw⟩
  · exact absurd h (by decide)
  · rcases hreserved with rfl | hge
    · exact absurd h (by decide)
    · bv_omega

theorem step_of_decode_ok {s : State} {w : CommandWord} {inp : List Char} {rest : List HostAction} {i : Instr}
    (hwork : s.work = none) (hissued : s.issued = .command w inp :: rest) (hd : decode w inp = .ok i) :
    step s = exec i { s with issued := rest } := by
  simp [step, hwork, takeAction, hissued, hd]

/-- Between transactions, a step on one of the words 0 to 6 is the ENCODE of some scheme. -/
theorem step_of_encode_word {s : State} {w : CommandWord} {inp : List Char} {rest : List HostAction}
    (hwork : s.work = none) (hissued : s.issued = .command w inp :: rest) (hw : w ≤ 0x6#4) :
    ∃ sch, step s = exec (Instr.encodeOf sch inp) { s with issued := rest } := by
  obtain ⟨sch, rfl⟩ := exists_scheme_of_le hw
  exact ⟨sch, step_of_decode_ok hwork hissued (decode_encodeOf sch inp)⟩

/-- An operand that fits goes to the validation, with fresh working registers. -/
theorem exec_encodeOf_eq_finishValidate (sch : SchemeId) {inp : List Char} {s : State} (hf : Fits s.params inp) :
    exec (Instr.encodeOf sch inp) s = .next (finishValidate (Work.capture sch inp) s) := by
  have ht : tooLong s.params inp = false := (fits_iff_tooLong s.params inp).mp hf
  simp [exec_encodeOf, encodeTransaction, ht, finishFrom]

theorem exec_encodeOf_of_not_validInput (sch : SchemeId) {inp : List Char} {s : State} (hf : Fits s.params inp)
    (hv : ¬ ValidInput inp) : exec (Instr.encodeOf sch inp) s = .next (answered s (.err .invalidInput)) := by
  simp [exec_encodeOf_eq_finishValidate sch hf, finishValidate, validate_of_not_validInput hv, State.raiseInvalidInput,
    respond_eq_answered]

theorem exec_encodeOf_of_validInput (sch : SchemeId) {inp : List Char} {s : State} (hf : Fits s.params inp)
    (hv : ValidInput inp) : ∃ e, exec (Instr.encodeOf sch inp) s = .next (answered s (.ok e)) := by
  simp only [exec_encodeOf_eq_finishValidate sch hf, finishValidate, Work.capture_inp, validate_of_validInput hv,
    finishEncode_eq, Work.setB_raced, Work.capture_raced, State.unlessRaced_false, respond_eq_answered]
  exact ⟨_, rfl⟩

/-- Settles O21: a reserved word does not decode; any of the words 0 to 6 is an ENCODE, whose outcome the length of its
operand and then the operand's characters decide. -/
theorem checksInOrder : Obligations.ChecksInOrder := by
  intro s w inp rest hwork hissued
  refine ⟨reservedWordsAreRefused s w inp rest hwork hissued, fun hw hf => ?_, fun hw hf hv => ?_, fun hw hf hv => ?_⟩
  all_goals
    obtain ⟨sch, hstep⟩ := step_of_encode_word hwork hissued hw
    rw [hstep]
  · exact exec_encodeOf_of_not_fits sch hf
  · exact exec_encodeOf_of_not_validInput sch hf hv
  · exact exec_encodeOf_of_validInput sch hf hv

end Sys2Proof.Safety
end

section
/-! PROOF. What the seven encoders compute (40_pipeline.md R63 to R70): the scan loop over registers emits the levels that
a recursion over the bits gives, and an ENCODE answers with the result those levels make. -/

namespace Sys2Proof.Safety

open Sys2Proof.Machine

/-- The levels of a scheme before expansion, from a value of its state register (40_pipeline.md R66). The two schemes
without a register do not look at it. -/
def rawLevels (sch : SchemeId) (p : Pol) (bits : List Bit) : List Level :=
  match sch with
  | .nrzL => nrzLLevels bits
  | .nrzI => nrzILevels p bits
  | .bipolarAmi => amiLevels p bits
  | .pseudoternary => ptLevels p bits
  | .manchester => manchesterLevels bits
  | .differentialManchester => dmLevels p bits
  | .b8zs => b8zsLevels p bits

/-- The state register a scheme keeps between bits (10_state.md R23); the two schemes without one may name any. -/
def schemeReg (sch : SchemeId) (w : Work) : Pol :=
  match sch with
  | .nrzI => w.level
  | .bipolarAmi => w.polAmi
  | .pseudoternary => w.polPt
  | .differentialManchester => w.ref
  | .b8zs => w.polB8zs
  | .nrzL | .manchester => .plus

/-! ### The block of B8ZS -/

theorem b8zsLevels_nil (p : Pol) : b8zsLevels p [] = [] := b8zsLevels.eq_1 p

theorem b8zsLevels_one (p : Pol) (rest : List Bit) :
    b8zsLevels p (.one :: rest) = p.toLevel :: b8zsLevels p.opp rest := b8zsLevels.eq_4 p rest

/-- Eight zeros ahead become the block of the polarity, as 44_b8zs.md R90's table writes it, and the polarity stays. -/
theorem b8zsLevels_block (p : Pol) (rest : List Bit) :
    b8zsLevels p (List.replicate 8 .zero ++ rest) = substitutionBlock p ++ b8zsLevels p rest := by
  cases p <;> exact b8zsLevels.eq_2 _ rest

theorem b8zsLevels_zero (p : Pol) (rest : List Bit) (h : ¬ List.replicate 8 .zero <+: .zero :: rest) :
    b8zsLevels p (.zero :: rest) = .zero :: b8zsLevels p rest := by
  refine b8zsLevels.eq_3 p rest fun tail htail => h ?_
  rw [htail]
  exact List.prefix_append (List.replicate 8 Bit.zero) tail

/-- Induction along the substitution: a block of eight zeros, a 0 with no block ahead, or a 1. -/
theorem b8zs_induction {motive : Pol → List Bit → Prop} (nil : ∀ p, motive p [])
    (block : ∀ p rest, motive p rest → motive p (List.replicate 8 .zero ++ rest))
    (zero : ∀ p rest, ¬ List.replicate 8 .zero <+: .zero :: rest → motive p rest → motive p (.zero :: rest))
    (one : ∀ p rest, motive p.opp rest → motive p (.one :: rest)) (p : Pol) (bits : List Bit) : motive p bits := by
  induction p, bits using b8zsLevels.induct with
  | case1 p => exact nil p
  | case2 p rest ih => exact block p rest ih
  | case3 p rest hno ih =>
    refine zero p rest (fun ⟨tail, htail⟩ => ?_) ih
    exact hno tail (List.cons_eq_cons.mp htail).2.symm
  | case4 p rest ih => exact one p rest ih

theorem zeroBlockAhead_iff (w : Work) :
    w.zeroBlockAhead = true ↔ List.replicate 8 .zero <+: w.b.drop w.cur := by
  simp only [Work.zeroBlockAhead, Bool.and_eq_true, decide_eq_true_eq]
  simp only [b8zsWindow, List.prefix_iff_eq_take, List.length_replicate]
  constructor
  · rintro ⟨-, h⟩
    exact h.symm
  · intro h
    have hlen := congrArg List.length h
    simp only [List.length_replicate, List.length_take, List.length_drop] at hlen
    exact ⟨by omega, h.symm⟩

/-! ### The scan loop -/

theorem rawLevels_nil (sch : SchemeId) (p : Pol) : rawLevels sch p [] = [] := by
  cases sch
  case b8zs => exact b8zsLevels_nil p
  all_goals rfl

theorem scanB8zs_trades (w : Work) (h : w.cur < w.b.length) :
    (scanB8zs w).raw ++ b8zsLevels (scanB8zs w).polB8zs (w.b.drop (scanB8zs w).cur) =
      w.raw ++ b8zsLevels w.polB8zs (w.b.drop w.cur) := by
  by_cases hz : w.zeroBlockAhead = true
  · obtain ⟨rest, hrest⟩ := (zeroBlockAhead_iff w).mp hz
    have hdrop : w.b.drop (w.cur + 8) = rest := by
      rw [← List.drop_drop, ← hrest]
      rfl
    rw [← hrest, b8zsLevels_block]
    simp [scanB8zs, hz, b8zsWindow, hdrop]
  · have hcons := List.drop_eq_getElem_cons h
    have hr := readBit_of_lt w h
    cases hb : w.b[w.cur] <;> rw [hb] at hr hcons
    · have hno : ¬ List.replicate 8 .zero <+: Bit.zero :: w.b.drop (w.cur + 1) := by
        rwa [← hcons, ← zeroBlockAhead_iff]
      simp [scanB8zs, hz, hr, hcons, b8zsLevels_zero _ _ hno]
    · simp [scanB8zs, hz, hr, hcons, b8zsLevels_one]

/-- A step of any encoder emits the levels of the bits it consumes: what it appends to `Raw` and what the bits then ahead
stand for are together what the bits ahead stood for before. -/
theorem scanBody_trades (sch : SchemeId) (w : Work) (h : w.cur < w.b.length) :
    (scanBody sch w).raw ++ rawLevels sch (schemeReg sch (scanBody sch w)) (w.b.drop (scanBody sch w).cur) =
      w.raw ++ rawLevels sch (schemeReg sch w) (w.b.drop w.cur) := by
  have hr := readBit_of_lt w h
  have hcons := List.drop_eq_getElem_cons h
  cases sch
  case b8zs => exact scanB8zs_trades w h
  all_goals
    cases hb : w.b[w.cur] <;> rw [hb] at hr hcons <;>
      simp [scanBody, scanNrzL, scanNrzI, scanBipolarAmi, scanPseudoternary, scanManchester,
        scanDifferentialManchester, rawLevels, schemeReg, nrzLLevels, nrzILevels, amiLevels, ptLevels,
        manchesterLevels, dmLevels, hr, hcons]

/-- `Raw` as it will be once the scan is over: what it holds, and the levels of the bits still ahead. -/
def rawAtEnd (w : Work) : List Level := w.raw ++ rawLevels w.scheme (schemeReg w.scheme w) (w.b.drop w.cur)

theorem runScan_emits (w : Work) :
    (runScan w).raw = rawAtEnd w ∧ (runScan w).scheme = w.scheme ∧ (runScan w).b = w.b :=
  scanLoop_emits (scanBody w.scheme) (schemeReg w.scheme) (rawLevels w.scheme) (rawLevels_nil w.scheme)
    (scanBody_move w.scheme) (scanBody_trades w.scheme) w.b.length w (Nat.sub_le _ _)

/-- The encoder and what follows it, with the loop of the scan put aside. -/
theorem finishEncode_eq_rawAtEnd (w : Work) (s : State) :
    finishEncode w s =
      s.unlessRaced w.raced (s.respond (.ok
        { sig := signalOf w.scheme (rawAtEnd w)
          tax := timeAxis (signalOf w.scheme (rawAtEnd w)).length
          bits := w.b })) := by
  obtain ⟨hraw, hscheme, hb⟩ := runScan_emits w
  rw [finishEncode_eq, hraw, hscheme, hb]

/-! ### The samples -/

/-- The samples a statement asks for are the signal of the scan from the registers' initial values. -/
theorem samples_eq_signalOf (sch : SchemeId) (inp : List Char) (bits : List Bit) :
    samples sch bits = signalOf sch (rawAtEnd ((Work.capture sch inp).setB bits)) := by
  cases sch <;> rfl

theorem nrzILevels_length (p : Pol) (bits : List Bit) : (nrzILevels p bits).length = bits.length := by
  induction bits generalizing p with
  | nil => rfl
  | cons x rest ih => cases x <;> simp [nrzILevels, ih]

theorem amiLevels_length (p : Pol) (bits : List Bit) : (amiLevels p bits).length = bits.length := by
  induction bits generalizing p with
  | nil => rfl
  | cons x rest ih => cases x <;> simp [amiLevels, ih]

theorem ptLevels_length (p : Pol) (bits : List Bit) : (ptLevels p bits).length = bits.length := by
  induction bits generalizing p with
  | nil => rfl
  | cons x rest ih => cases x <;> simp [ptLevels, ih]

theorem manchesterLevels_length (bits : List Bit) : (manchesterLevels bits).length = 2 * bits.length := by
  induction bits with
  | nil => rfl
  | cons x rest ih =>
    rw [manchesterLevels] at ih
    cases x <;> simp [manchesterLevels, ih] <;> omega

theorem dmLevels_length (p : Pol) (bits : List Bit) : (dmLevels p bits).length = 2 * bits.length := by
  induction bits generalizing p with
  | nil => rfl
  | cons x rest ih => cases x <;> simp [dmLevels, ih] <;> omega

theorem substitutionBlock_length (p : Pol) : (substitutionBlock p).length = 8 := by cases p <;> rfl

theorem b8zsLevels_length (p : Pol) (bits : List Bit) : (b8zsLevels p bits).length = bits.length := by
  induction p, bits using b8zs_induction with
  | nil p => simp [b8zsLevels_nil]
  | block p rest ih =>
    rw [b8zsLevels_block, List.length_append, List.length_append, substitutionBlock_length, List.length_replicate, ih]
  | zero p rest hno ih => simp [b8zsLevels_zero p rest hno, ih]
  | one p rest ih => simp [b8zsLevels_one, ih]

theorem rawLevels_length (sch : SchemeId) (p : Pol) (bits : List Bit) :
    (rawLevels sch p bits).length = levelsPerBit sch * bits.length := by
  cases sch <;>
    simp [rawLevels, levelsPerBit, nrzLLevels, nrzILevels_length, amiLevels_length, ptLevels_length,
      manchesterLevels_length, dmLevels_length, b8zsLevels_length]

/-- Expansion makes two samples of every bit's levels (40_pipeline.md R71). -/
theorem signalOf_length {sch : SchemeId} {raw : List Level} {n : Nat} (h : raw.length = levelsPerBit sch * n) :
    (signalOf sch raw).length = 2 * n := by
  cases sch <;> simp [signalOf, expands, expand, levelsPerBit] at h ⊢ <;> omega

theorem samples_length (sch : SchemeId) (bits : List Bit) : (samples sch bits).length = 2 * bits.length := by
  rw [samples_eq_signalOf sch []]
  exact signalOf_length (by simp [rawAtEnd, rawLevels_length])

/-! ### The response -/

/-- An ENCODE of a valid string that fits answers with the result of its scheme. -/
theorem exec_encodeOf_eq_resultOf (sch : SchemeId) {inp : List Char} {s : State} (hv : ValidInput inp)
    (hf : Fits s.params inp) : exec (Instr.encodeOf sch inp) s = .next (answered s (.ok (resultOf sch inp))) := by
  have htax : timeAxis (samples sch (bitsOf inp)).length = List.range (2 * inp.length) := by
    rw [timeAxis, samples_length, bitsOf_length]
  simp only [exec_encodeOf_eq_finishValidate sch hf, finishValidate, Work.capture_inp, validate_of_validInput hv,
    finishEncode_eq_rawAtEnd, Work.setB_raced, Work.setB_scheme, Work.setB_b, Work.capture_raced, Work.capture_scheme,
    State.unlessRaced_false, respond_eq_answered, ← samples_eq_signalOf, htax, resultOf]

/-- Settles O9: the word decodes to the ENCODE of the scheme, whose result the statement writes out. -/
theorem nrzLEncodes : Obligations.NrzLEncodes :=
  fun _ inp hv hf => ⟨decode_encodeOf .nrzL inp, exec_encodeOf_eq_resultOf .nrzL hv hf⟩

/-- Settles O10, as O9. -/
theorem nrzIEncodes : Obligations.NrzIEncodes :=
  fun _ inp hv hf => ⟨decode_encodeOf .nrzI inp, exec_encodeOf_eq_resultOf .nrzI hv hf⟩

/-- Settles O11, as O9. -/
theorem bipolarAmiEncodes : Obligations.BipolarAmiEncodes :=
  fun _ inp hv hf => ⟨decode_encodeOf .bipolarAmi inp, exec_encodeOf_eq_resultOf .bipolarAmi hv hf⟩

/-- Settles O12, as O9. -/
theorem pseudoternaryEncodes : Obligations.PseudoternaryEncodes :=
  fun _ inp hv hf => ⟨decode_encodeOf .pseudoternary inp, exec_encodeOf_eq_resultOf .pseudoternary hv hf⟩

/-- Settles O13, as O9. -/
theorem manchesterEncodes : Obligations.ManchesterEncodes :=
  fun _ inp hv hf => ⟨decode_encodeOf .manchester inp, exec_encodeOf_eq_resultOf .manchester hv hf⟩

/-- Settles O14, as O9. -/
theorem differentialManchesterEncodes : Obligations.DifferentialManchesterEncodes :=
  fun _ inp hv hf =>
    ⟨decode_encodeOf .differentialManchester inp, exec_encodeOf_eq_resultOf .differentialManchester hv hf⟩

/-- Settles O15, as O9. -/
theorem b8zsEncodes : Obligations.B8zsEncodes :=
  fun _ inp hv hf => ⟨decode_encodeOf .b8zs inp, exec_encodeOf_eq_resultOf .b8zs hv hf⟩

end Sys2Proof.Safety
end

section
/-! PROOF. The byte form and the text form of a command (30_encoding.md R50 to R55, R61), and the codes of levels (R56). -/

namespace Sys2Proof.Safety

open Sys2Proof.Machine

/-! ### Words and bytes -/

/-- Every command is read back from its word with its operand beside it (30_encoding.md R52). -/
theorem decode_encodeWord (i : Instr) : decode (encodeWord i) i.operand = .ok i := by
  rcases instr_cases i with rfl | ⟨sch, hi⟩
  · exact decode_listSchemes []
  · generalize i.operand = inp at hi ⊢
    rw [hi, encodeWord_encodeOf, decode_encodeOf]

theorem charOfByte_byteOfChar {c : Char} (h : charFitsByte c = true) : charOfByte (byteOfChar c) = c := by
  have hlt : c.toNat < 2 ^ 8 := of_decide_eq_true h
  rw [charOfByte, byteOfChar, BitVec.toNat_ofNat, Nat.mod_eq_of_lt hlt, Char.ofNat_toNat]

theorem byteOfChar_charOfByte (x : Byte) : byteOfChar (charOfByte x) = x := by
  have hvalid : x.toNat.isValidChar := .inl (by omega)
  rw [byteOfChar, charOfByte, Char.toNat_ofNat, if_pos hvalid, BitVec.ofNat_toNat, BitVec.setWidth_eq]

theorem encodeOperand_map_charOfByte {i : Instr} (h : i.wf = true) :
    (encodeOperand i).map charOfByte = i.operand := by
  rw [encodeOperand, List.map_map]
  exact (List.map_congr_left fun c hc => charOfByte_byteOfChar (List.all_eq_true.mp h c hc)).trans (List.map_id _)

/-- Settles O5: the operand's characters come back from their bytes, and then the command from its word. -/
theorem byteEncodingRoundTrip : Obligations.ByteEncodingRoundTrip := by
  intro i hwf
  rw [decodeBytes, encode, encodeOperand_map_charOfByte hwf, decode_encodeWord]

theorem operand_encodeOf (sch : SchemeId) (inp : List Char) : (Instr.encodeOf sch inp).operand = inp := by
  cases sch <;> rfl

/-- Settles O6, by the three ways a word can decode. -/
theorem decodedWordIsEncodedWord : Obligations.DecodedWordIsEncodedWord := by
  intro w inp i h
  rcases decode_cases w inp with ⟨sch, rfl, hd⟩ | ⟨rfl, hd⟩ | ⟨-, hd⟩ <;> rw [hd] at h <;> cases h
  · exact ⟨encodeWord_encodeOf sch inp, .inr (operand_encodeOf sch inp)⟩
  · exact ⟨rfl, .inl rfl⟩

theorem charOfByte_eq_iff (x : Byte) (c : Char) (h : charFitsByte c = true) :
    charOfByte x = c ↔ x = byteOfChar c :=
  ⟨fun hx => by rw [← hx, byteOfChar_charOfByte], fun hx => by rw [hx, charOfByte_byteOfChar h]⟩

theorem validate_ok_iff (inp : List Char) : (∃ bits, validate inp = .ok bits) ↔ ValidInput inp := by
  by_cases hv : ValidInput inp
  · exact ⟨fun _ => hv, fun _ => ⟨_, validate_of_validInput hv⟩⟩
  · simp [validate_of_not_validInput hv, hv]

/-- Settles O7: a string of one character is valid exactly when the character is a digit, and each digit has one byte. -/
theorem onlyDigitBytesAreValid : Obligations.OnlyDigitBytesAreValid := by
  refine ⟨by decide, by decide, fun x => ?_⟩
  have h0 := charOfByte_eq_iff x '0' (by decide)
  have h1 := charOfByte_eq_iff x '1' (by decide)
  rw [validate_ok_iff, validInput_iff]
  simp only [ne_eq, List.cons_ne_self, not_false_eq_true, true_and, List.mem_singleton, forall_eq, h0, h1]
  exact Iff.rfl

/-! ### Text -/

theorem afterPrefix_eq_some_iff (pre text rest : List Char) :
    afterPrefix pre text = some rest ↔ text = pre ++ rest := by
  induction pre generalizing text with
  | nil => simp [afterPrefix]
  | cons a pre ih =>
    cases text with
    | nil => simp [afterPrefix]
    | cons c text =>
      by_cases hac : a = c
      · simp [afterPrefix, hac, ih]
      · simp [afterPrefix, hac, Ne.symm hac]

/-- The name of no scheme, with the comma after it, begins another's. -/
theorem encodePrefix_prefix : ∀ a b : SchemeId, encodePrefix a <+: encodePrefix b → a = b := by
  intro a b
  cases a <;> cases b <;> decide

theorem closedOperand_concat (inp : List Char) : closedOperand (inp ++ ['"']) = some inp := by
  simp [closedOperand]

theorem commandText_encodeOf (sch : SchemeId) (inp : List Char) :
    commandText (Instr.encodeOf sch inp) = encodePrefix sch ++ (inp ++ ['"']) := by
  cases sch <;> exact List.append_assoc _ _ _

theorem parseEncode_commandText (sch : SchemeId) (inp : List Char) :
    parseEncode (commandText (Instr.encodeOf sch inp)) sch = some (Instr.encodeOf sch inp) := by
  have h := (afterPrefix_eq_some_iff (encodePrefix sch) _ (inp ++ ['"'])).mpr (commandText_encodeOf sch inp)
  simp [parseEncode, h, closedOperand_concat]

/-- The text of an ENCODE spells an ENCODE of its own scheme only: two prefixes of one text are prefixes of each other. -/
theorem scheme_eq_of_parseEncode {sch sch' : SchemeId} {inp : List Char} {i : Instr}
    (h : parseEncode (commandText (Instr.encodeOf sch inp)) sch' = some i) : sch' = sch := by
  obtain ⟨operand, hop, -⟩ := Option.map_eq_some_iff.mp h
  obtain ⟨rest, hrest, -⟩ := Option.bind_eq_some_iff.mp hop
  have hpre' : encodePrefix sch' <+: commandText (Instr.encodeOf sch inp) :=
    ⟨rest, ((afterPrefix_eq_some_iff _ _ _).mp hrest).symm⟩
  have hpre : encodePrefix sch <+: commandText (Instr.encodeOf sch inp) := ⟨_, (commandText_encodeOf sch inp).symm⟩
  rcases List.prefix_or_prefix_of_prefix hpre' hpre with h | h
  · exact encodePrefix_prefix _ _ h
  · exact (encodePrefix_prefix _ _ h).symm

theorem mem_schemeTableConst (sch : SchemeId) : sch ∈ schemeTableConst := by cases sch <;> decide

theorem parseText_commandText_encodeOf (sch : SchemeId) (inp : List Char) :
    parseText (commandText (Instr.encodeOf sch inp)) = some (Instr.encodeOf sch inp) := by
  have hne : commandText (Instr.encodeOf sch inp) ≠ commandText .listSchemes := by
    rw [commandText_encodeOf]
    intro h
    exact absurd (List.head_eq_of_cons_eq h) (by decide)
  rw [parseText]
  refine (if_neg hne).trans ?_
  cases hfind : schemeTableConst.findSome? (parseEncode (commandText (Instr.encodeOf sch inp))) with
  | none =>
    have := List.findSome?_eq_none_iff.mp hfind sch (mem_schemeTableConst sch)
    rw [parseEncode_commandText] at this
    cases this
  | some i =>
    obtain ⟨sch', -, hi⟩ := List.exists_of_findSome?_eq_some hfind
    obtain rfl := scheme_eq_of_parseEncode hi
    rw [← hi, parseEncode_commandText]

/-- Settles O8: of the seven prefixes only that of the command's own scheme stands in its text. -/
theorem textRoundTrip : Obligations.TextRoundTrip := by
  intro i
  rcases instr_cases i with rfl | ⟨sch, hi⟩
  · rfl
  · rw [hi]
    exact parseText_commandText_encodeOf sch _

/-! ### Level codes -/

/-- Settles O52: a small fact about each of the three levels. -/
theorem levelCodes : Obligations.LevelCodes := by
  refine ⟨rfl, rfl, rfl, fun l => ?_⟩
  cases l <;> exact ⟨by decide, by decide, rfl⟩

end Sys2Proof.Safety
end

section
/-! PROOF. What a command is answered with, what it leaves unchanged (10_state.md R18, 60_exceptions.md R95, R96), and the
invariant between transactions. -/

namespace Sys2Proof.Safety

open Sys2Proof.Machine

/-! ### The response of a command -/

/-- What a command that is not refused is answered with: the list, the result of a valid operand, or the error. -/
theorem exec_cases {i : Instr} {s t : State} (h : exec i s = .next t) :
    (i = .listSchemes ∧ t = answered s (.schemeList s.schemeTable)) ∨
    ∃ sch inp, i = Instr.encodeOf sch inp ∧ Fits s.params inp ∧
      ((ValidInput inp ∧ t = answered s (.ok (resultOf sch inp))) ∨
        (¬ ValidInput inp ∧ t = answered s (.err .invalidInput))) := by
  rcases instr_cases i with rfl | ⟨sch, hi⟩
  · rw [exec_listSchemes] at h
    cases h
    exact .inl ⟨rfl, rfl⟩
  · refine .inr ⟨sch, i.operand, hi, ?_⟩
    rw [hi] at h
    by_cases hf : Fits s.params i.operand
    · refine ⟨hf, ?_⟩
      by_cases hv : ValidInput i.operand
      · rw [exec_encodeOf_eq_resultOf sch hv hf] at h
        cases h
        exact .inl ⟨hv, rfl⟩
      · rw [exec_encodeOf_of_not_validInput sch hf hv] at h
        cases h
        exact .inr ⟨hv, rfl⟩
    · rw [exec_encodeOf_of_not_fits sch hf] at h
      cases h

theorem eq_of_answered_responses {s : State} {r r' : Response}
    (h : (answered s r).responses = s.responses ++ [r']) : r = r' := by
  simpa using h

/-- A command is answered alike in every state with the same `N_MAX` and table. -/
theorem exec_answered_congr {i : Instr} {s s' : State} {r : Response} (hn : s.params.nMax = s'.params.nMax)
    (htable : s.schemeTable = s'.schemeTable) (h : exec i s = .next (answered s r)) :
    exec i s' = .next (answered s' r) := by
  obtain ⟨r₁, hr₁, hexec⟩ := responseDependsOnlyOnCommand s s' _ i hn htable h
  have hr : r = r₁ := eq_of_answered_responses (by rw [hr₁, answered_responses])
  rw [hexec, hr]

theorem microWork_of_not_validInput {w : Work} (s : State) (hstage : w.stage = .validate) (hv : ¬ ValidInput w.inp) :
    microWork w s = s.unlessRaced w.raced s.raiseInvalidInput := by
  simp only [microWork, hstage, validate_of_not_validInput hv]

/-- Settles O18: the check of the characters comes before any encoder, as a part of the whole transaction and as a micro
step of its own, and no command's response depends on the transactions before it. -/
theorem invalidInputAnswersError : Obligations.InvalidInputAnswersError := by
  intro s sch inp hf hv
  refine ⟨exec_encodeOf_of_not_validInput sch hf hv, fun i t r hexec hr => ?_, fun w hstage hinp hraced => ?_⟩
  · obtain ⟨r', rfl⟩ := exec_next_answered hexec
    obtain rfl := eq_of_answered_responses hr
    exact exec_answered_congr (s := s) (s' := answered s (.err .invalidInput)) rfl rfl hexec
  · rw [microWork_of_not_validInput s hstage (hinp ▸ hv), hraced]
    rfl

/-- Settles O19: of the responses a command can have, the error is only that of an invalid operand. -/
theorem errorOnlyForInvalidInput : Obligations.ErrorOnlyForInvalidInput := by
  intro s t i k hexec hr
  rcases exec_cases hexec with ⟨-, rfl⟩ | ⟨sch, inp, hi, -, ⟨-, rfl⟩ | ⟨hv, rfl⟩⟩
  · cases eq_of_answered_responses hr
  · cases eq_of_answered_responses hr
  · exact ⟨sch, inp, hi, hv⟩

theorem exec_sound {i : Instr} {s t : State} (htable : s.schemeTable = schemeTableConst) (h : exec i s = .next t) :
    ∃ r, t = answered s r ∧ SoundResponse s.params r := by
  rcases exec_cases h with ⟨-, ht⟩ | ⟨sch, inp, -, hf, ⟨hv, ht⟩ | ⟨-, ht⟩⟩
  · exact ⟨_, ht, htable⟩
  · exact ⟨_, ht, sch, inp, hv, hf, rfl⟩
  · exact ⟨_, ht, trivial⟩

/-- Settles O22: the next state is the state with one sound response more. -/
theorem commandFrame : Obligations.CommandFrame := by
  intro s t i htable hexec
  obtain ⟨r, rfl, hr⟩ := exec_sound htable hexec
  exact ⟨rfl, rfl, rfl, rfl, r, rfl, hr⟩

/-! ### The step around the command -/

/-- Settles O3: the action is taken, its word decodes, and the step is the command. -/
theorem stepRunsDecodedCommand : Obligations.StepRunsDecodedCommand :=
  fun _ _ _ _ _ => step_of_decode_ok

theorem step_of_idle {s : State} (hwork : s.work = none) (hissued : s.issued = []) : step s = .next s := by
  simp [step, hwork, takeAction, hissued]

theorem step_of_work {s : State} {w : Work} (hwork : s.work = some w) : step s = .next (finishFrom w s) := by
  simp [step, hwork]

/-- Settles O4: an idle step stays, and finishing a transaction adds one response. -/
theorem stepWithoutCommand : Obligations.StepWithoutCommand := by
  refine ⟨fun _ => step_of_idle, fun s hne => ?_⟩
  obtain ⟨w, hw⟩ := Option.ne_none_iff_exists'.mp hne
  obtain ⟨r, hr⟩ := finishFrom_responds w s
  exact ⟨r, by rw [step_of_work hw, hr, respond_eq_answered]⟩

theorem resetBlock_of_idle {s : State} (hwork : s.work = none) : s.resetBlock = s := by
  cases s
  cases hwork
  rfl

/-- Settles O34: the action is taken, and no working register is there to drop. -/
theorem resetBetweenChangesNothing : Obligations.ResetBetweenChangesNothing := by
  intro s rest hwork hissued
  simp [step, hwork, takeAction, hissued, State.resetBlock]

/-! ### The invariant -/

/-- Settles O27: each conjunct is a field of the state after reset. -/
theorem resetLeavesOnlyTheTable : Obligations.ResetLeavesOnlyTheTable :=
  ⟨rfl, rfl, rfl, rfl, rfl, rfl, rfl⟩

theorem noRace_reset : NoRace State.reset :=
  ⟨fun _ ha => absurd ha List.not_mem_nil, fun _ hw => by cases hw⟩

/-- Settles O28: the parameters are the defaults and nothing has been issued or answered. -/
theorem resetMeetsInvariant : Obligations.ResetMeetsInvariant :=
  ⟨by decide, rfl, rfl, noRace_reset, fun _ hr => absurd hr List.not_mem_nil⟩

theorem noRace_answered {s : State} (r : Response) (h : NoRace s) : NoRace (answered s r) :=
  ⟨h.1, fun _ hw => by cases hw⟩

/-- Taking an issued action rewrites no operand. -/
theorem noRace_take {s : State} {a : HostAction} {rest : List HostAction} (h : NoRace s) (hissued : s.issued = a :: rest) :
    NoRace { s with issued := rest } :=
  ⟨fun b hb => h.1 b (hissued ▸ List.mem_cons_of_mem a hb), h.2⟩

theorem noRace_head {s : State} {w : CommandWord} {rest : List HostAction} (h : NoRace s) :
    s.issued ≠ .racedCommand w :: rest :=
  fun hissued => h.1 _ (hissued ▸ List.mem_cons_self) w rfl

/-- Where no operand was rewritten, a step between transactions is idle, takes a reset, or takes a command and adds a sound
response. -/
theorem step_noRace_cases {s t : State} (hwork : s.work = none) (htable : s.schemeTable = schemeTableConst)
    (hnorace : NoRace s) (h : step s = .next t) :
    t = s ∨ ∃ a rest, s.issued = a :: rest ∧
      (t = { s with issued := rest } ∨ ∃ r, SoundResponse s.params r ∧ t = answered { s with issued := rest } r) := by
  rcases step_cases s with ⟨w, hw, -⟩ | ⟨-, -, hs⟩ | ⟨rest, -, hissued, hs⟩ | ⟨_, _, _, _, _, -, -, -, -, hs⟩ |
    ⟨w, inp, rest, i, -, hissued, -, hs⟩ | ⟨w, rest, i, -, hissued, -, -⟩
  · rw [hwork] at hw
    cases hw
  · rw [hs] at h
    cases h
    exact .inl rfl
  · rw [hs, ← hwork] at h
    cases h
    exact .inr ⟨_, rest, hissued, .inl rfl⟩
  · rw [hs] at h
    cases h
  · rw [hs] at h
    obtain ⟨r, ht, hr⟩ := exec_sound (s := { s with issued := rest }) htable h
    exact .inr ⟨_, rest, hissued, .inr ⟨r, hr, ht⟩⟩
  · exact absurd hissued (noRace_head hnorace)

theorem inv_take {s : State} {a : HostAction} {rest : List HostAction} (h : Inv s) (hissued : s.issued = a :: rest) :
    Inv { s with issued := rest } := by
  obtain ⟨hparams, htable, hwork, hnorace, hsound⟩ := h
  exact ⟨hparams, htable, hwork, noRace_take hnorace hissued, hsound⟩

theorem inv_answered {s : State} {r : Response} (h : Inv s) (hr : SoundResponse s.params r) : Inv (answered s r) := by
  obtain ⟨hparams, htable, -, hnorace, hsound⟩ := h
  refine ⟨hparams, htable, rfl, noRace_answered r hnorace, fun r' hr' => ?_⟩
  rcases List.mem_append.mp hr' with hold | hnew
  · exact hsound r' hold
  · exact List.mem_singleton.mp hnew ▸ hr

/-- Settles O29: taking an action keeps the invariant, and so does adding a sound response. -/
theorem stepKeepsInvariant : Obligations.StepKeepsInvariant := by
  intro s t hinv hstep
  have ⟨_, htable, hwork, hnorace, _⟩ := hinv
  rcases step_noRace_cases hwork htable hnorace hstep with rfl | ⟨a, rest, hissued, rfl | ⟨r, hr, rfl⟩⟩
  · exact hinv
  · exact inv_take hinv hissued
  · exact inv_answered (inv_take hinv hissued) hr

end Sys2Proof.Safety
end

section
/-! PROOF. The micro steps of a transaction (log entry 11): what each can do, that together they come to the step, and the
invariant they keep (10_state.md R25, R27, R35; 70_reset_and_hazards.md R111, R117). -/

namespace Sys2Proof.Safety

open Sys2Proof.Machine

/-! ### What a step and a micro step can do -/

/-- A step that answers was idle, took a reset, or added one response. -/
theorem step_next_cases {s t : State} (h : step s = .next t) :
    (s.work = none ∧ t = s) ∨ (∃ rest, t = { s with issued := rest, work := none }) ∨
      ∃ as r, t = answered { s with issued := as } r := by
  rcases step_cases s with ⟨w, -, hs⟩ | ⟨hwork, -, hs⟩ | ⟨rest, -, -, hs⟩ | ⟨_, _, _, _, _, -, -, -, -, hs⟩ |
    ⟨_, _, rest, i, -, -, -, hs⟩ | ⟨_, rest, i, -, -, -, hs⟩ <;> rw [hs] at h
  · obtain ⟨r, hr⟩ := finishFrom_responds w s
    cases h
    exact .inr (.inr ⟨s.issued, r, hr⟩)
  · cases h
    exact .inl ⟨hwork, rfl⟩
  · cases h
    exact .inr (.inl ⟨rest, rfl⟩)
  · cases h
  · obtain ⟨r, hr⟩ := exec_next_answered h
    exact .inr (.inr ⟨rest, r, hr⟩)
  · rcases racedTransaction_cases i { s with issued := rest } with ⟨-, hr⟩ | ⟨_, -, hr⟩ <;> rw [hr] at h <;> cases h <;>
      exact .inr (.inr ⟨rest, _, rfl⟩)

theorem step_work {s t : State} (h : step s = .next t) : t.work = none := by
  rcases step_next_cases h with ⟨hwork, rfl⟩ | ⟨_, rfl⟩ | ⟨_, _, rfl⟩
  · exact hwork
  · rfl
  · rfl

theorem step_params {s t : State} (h : step s = .next t) : t.params = s.params := by
  rcases step_next_cases h with ⟨-, rfl⟩ | ⟨_, rfl⟩ | ⟨_, _, rfl⟩ <;> rfl

theorem microStep_of_work {s : State} {w : Work} (hwork : s.work = some w) :
    microStep s = .next (microWork w s) := by
  simp [microStep, hwork]

theorem microStep_of_decode_ok {s : State} {w : CommandWord} {inp : List Char} {rest : List HostAction} {i : Instr}
    (hwork : s.work = none) (hissued : s.issued = .command w inp :: rest) (hd : decode w inp = .ok i) :
    microStep s = microBegin i { s with issued := rest } := by
  simp [microStep, hwork, takeAction, hissued, hd]

theorem step_of_raced_decode_ok {s : State} {w : CommandWord} {rest : List HostAction} {i : Instr}
    (hwork : s.work = none) (hissued : s.issued = .racedCommand w :: rest) (hd : decode w [] = .ok i) :
    step s = racedTransaction i { s with issued := rest } := by
  simp [step, hwork, takeAction, hissued, hd]

theorem microStep_of_raced_decode_ok {s : State} {w : CommandWord} {rest : List HostAction} {i : Instr}
    (hwork : s.work = none) (hissued : s.issued = .racedCommand w :: rest) (hd : decode w [] = .ok i) :
    microStep s = microBeginRaced i { s with issued := rest } := by
  simp [microStep, hwork, takeAction, hissued, hd]

theorem scheme?_encodeOf (sch : SchemeId) (inp : List Char) : (Instr.encodeOf sch inp).scheme? = some sch := by
  cases sch <;> rfl

theorem microBegin_of_fits (sch : SchemeId) {inp : List Char} {s : State} (hf : Fits s.params inp) :
    microBegin (Instr.encodeOf sch inp) s = .next (s.withWork (Work.capture sch inp)) := by
  have ht : tooLong s.params inp = false := (fits_iff_tooLong s.params inp).mp hf
  simp [microBegin, scheme?_encodeOf, operand_encodeOf, ht]

theorem microBegin_of_not_fits (sch : SchemeId) {inp : List Char} {s : State} (hf : ¬ Fits s.params inp) :
    microBegin (Instr.encodeOf sch inp) s = .refused .tooLong := by
  have ht : tooLong s.params inp = true := by simpa [fits_iff_tooLong] using hf
  simp [microBegin, scheme?_encodeOf, operand_encodeOf, ht]

theorem racedTransaction_encodeOf (sch : SchemeId) (inp : List Char) (s : State) :
    racedTransaction (Instr.encodeOf sch inp) s = .next s.racedRespond := by
  simp [racedTransaction, scheme?_encodeOf, finishFrom_raced _ s (Work.captureRaced_raced sch)]

theorem microBeginRaced_encodeOf (sch : SchemeId) (inp : List Char) (s : State) :
    microBeginRaced (Instr.encodeOf sch inp) s = .next (s.withWork (Work.captureRaced sch)) := by
  simp [microBeginRaced, scheme?_encodeOf]

/-- What a micro step can do: a stage of the transaction in flight, the start of an ENCODE, or, where there is no ENCODE to
begin, all that the step does. -/
theorem microStep_cases (s : State) :
    (∃ w, s.work = some w ∧ microStep s = .next (microWork w s)) ∨
    (∃ w inp rest sch, s.work = none ∧ s.issued = .command w inp :: rest ∧ Fits s.params inp ∧
      step s = exec (Instr.encodeOf sch inp) { s with issued := rest } ∧
      microStep s = .next ({ s with issued := rest }.withWork (Work.capture sch inp))) ∨
    (∃ w rest sch, s.work = none ∧ s.issued = .racedCommand w :: rest ∧
      step s = .next ({ s with issued := rest }.racedRespond) ∧
      microStep s = .next ({ s with issued := rest }.withWork (Work.captureRaced sch))) ∨
    (s.work = none ∧ microStep s = step s) := by
  rcases Option.eq_none_or_eq_some s.work with hwork | ⟨w, hwork⟩
  · right
    cases hissued : s.issued with
    | nil => exact .inr (.inr ⟨hwork, by simp [microStep, step, hwork, takeAction, hissued]⟩)
    | cons a rest =>
      cases a with
      | reset => exact .inr (.inr ⟨hwork, by simp [microStep, step, hwork, takeAction, hissued]⟩)
      | command w inp =>
        rcases decode_cases w inp with ⟨sch, -, hd⟩ | ⟨-, hd⟩ | ⟨-, hd⟩
        · have hs := step_of_decode_ok hwork hissued hd
          have hm := microStep_of_decode_ok hwork hissued hd
          by_cases hf : Fits s.params inp
          · exact .inl ⟨w, inp, rest, sch, hwork, rfl, hf, hs, hm.trans (microBegin_of_fits sch hf)⟩
          · exact .inr (.inr ⟨hwork,
              (hm.trans (microBegin_of_not_fits sch hf)).trans (hs.trans (exec_encodeOf_of_not_fits sch hf)).symm⟩)
        · exact .inr (.inr ⟨hwork,
            (microStep_of_decode_ok hwork hissued hd).trans (step_of_decode_ok hwork hissued hd).symm⟩)
        · exact .inr (.inr ⟨hwork, by simp [microStep, step, hwork, takeAction, hissued, hd]⟩)
      | racedCommand w =>
        rcases decode_cases w [] with ⟨sch, -, hd⟩ | ⟨-, hd⟩ | ⟨-, hd⟩
        · exact .inr (.inl ⟨w, rest, sch, hwork, rfl,
            (step_of_raced_decode_ok hwork hissued hd).trans (racedTransaction_encodeOf sch [] _),
            (microStep_of_raced_decode_ok hwork hissued hd).trans (microBeginRaced_encodeOf sch [] _)⟩)
        · exact .inr (.inr ⟨hwork,
            (microStep_of_raced_decode_ok hwork hissued hd).trans (step_of_raced_decode_ok hwork hissued hd).symm⟩)
        · exact .inr (.inr ⟨hwork, by simp [microStep, step, hwork, takeAction, hissued, hd]⟩)
  · exact .inl ⟨w, hwork, microStep_of_work hwork⟩

/-! ### One stage of a transaction

With `microWork_of_not_validInput`, what a micro step does at each stage. -/

theorem microWork_of_validInput {w : Work} (s : State) (hstage : w.stage = .validate) (hv : ValidInput w.inp) :
    microWork w s = s.withWork ((w.setB (bitsOf w.inp)).setStage .encode) := by
  simp only [microWork, hstage, validate_of_validInput hv]

theorem microWork_of_bitsLeft {w : Work} (s : State) (hstage : w.stage = .encode) (h : w.cur < w.b.length) :
    microWork w s = s.withWork (scanBody w.scheme w) := by
  simp [microWork, hstage, Work.bitsLeft, h]

theorem microWork_of_scan_over {w : Work} (s : State) (hstage : w.stage = .encode) (h : ¬ w.cur < w.b.length) :
    microWork w s = s.withWork (w.setStage .expand) := by
  simp [microWork, hstage, Work.bitsLeft, h]

theorem microWork_of_expand {w : Work} (s : State) (hstage : w.stage = .expand) :
    microWork w s = s.withWork ((w.setSig (signalOf w.scheme w.raw)).setStage .timeAxis) := by
  simp only [microWork, hstage]

theorem microWork_of_timeAxis {w : Work} (s : State) (hstage : w.stage = .timeAxis) :
    microWork w s = s.withWork ((w.setTax (timeAxis w.sig.length)).setStage .assemble) := by
  simp only [microWork, hstage]

theorem microWork_of_assemble {w : Work} (s : State) (hstage : w.stage = .assemble) :
    microWork w s = finishAssemble w s := by
  simp only [microWork, hstage]

/-! ### Micro steps come to the step -/

theorem rawAtEnd_setStage (w : Work) (stage : Stage) : rawAtEnd (w.setStage stage) = rawAtEnd w := by
  have hreg : schemeReg w.scheme (w.setStage stage) = schemeReg w.scheme w := by cases w.scheme <;> rfl
  simp only [rawAtEnd, Work.setStage_raw, Work.setStage_scheme, Work.setStage_b, Work.setStage_cur, hreg]

theorem rawAtEnd_scanBody {w : Work} (h : w.cur < w.b.length) : rawAtEnd (scanBody w.scheme w) = rawAtEnd w := by
  have m := scanBody_move w.scheme w h
  rw [rawAtEnd, m.scheme, m.b, scanBody_trades w.scheme w h, rawAtEnd]

theorem finishEncode_setStage (w : Work) (stage : Stage) (s : State) :
    finishEncode (w.setStage stage) s = finishEncode w s := by
  simp only [finishEncode_eq_rawAtEnd, rawAtEnd_setStage, Work.setStage_raced, Work.setStage_scheme, Work.setStage_b]

/-- One step of the encoder's loop leaves the rest of the loop to run. -/
theorem finishEncode_scanBody {w : Work} (h : w.cur < w.b.length) (s : State) :
    finishEncode (scanBody w.scheme w) s = finishEncode w s := by
  have m := scanBody_move w.scheme w h
  simp only [finishEncode_eq_rawAtEnd, rawAtEnd_scanBody h, m.raced, m.scheme, m.b]

theorem finishEncode_of_scan_over {w : Work} (h : w.b.length ≤ w.cur) (s : State) :
    finishEncode w s = finishExpand w s := by
  rw [finishEncode, runScan, scanLoop_stop _ _ _ h]

/-- How many micro steps at most end the transaction with these registers: one a stage, and one a bit left to scan
(70_reset_and_hazards.md R117). -/
def stepsLeft (w : Work) : Nat :=
  match w.stage with
  | .validate => w.inp.length + 5
  | .encode => w.b.length - w.cur + 4
  | .expand => 3
  | .timeAxis => 2
  | .assemble => 1

theorem stepsLeft_le (w : Work) : stepsLeft w ≤ w.inp.length + w.b.length + 5 := by
  unfold stepsLeft
  cases w.stage <;> simp only <;> omega

/-- A micro step of a transaction ends it with the response it would have had, or leaves registers that have fewer micro
steps to go and end in the same response. -/
theorem microWork_cases (w : Work) (s : State) :
    microWork w s = finishFrom w s ∨
      ∃ v, microWork w s = s.withWork v ∧ (∀ s', finishFrom v s' = finishFrom w s') ∧ stepsLeft v < stepsLeft w := by
  cases hstage : w.stage with
  | validate =>
    by_cases hv : ValidInput w.inp
    · refine .inr ⟨_, microWork_of_validInput s hstage hv, fun s' => ?_, ?_⟩
      · simp only [finishFrom, hstage, Work.setStage_stage, finishValidate, validate_of_validInput hv,
          finishEncode_setStage]
      · simp only [stepsLeft, hstage, Work.setStage_stage, Work.setStage_b, Work.setB_b, bitsOf_length]
        omega
    · left
      rw [microWork_of_not_validInput s hstage hv]
      simp only [finishFrom, hstage, finishValidate, validate_of_not_validInput hv]
  | encode =>
    right
    by_cases hl : w.cur < w.b.length
    · have m := scanBody_move w.scheme w hl
      have hcur := m.cur.1
      refine ⟨_, microWork_of_bitsLeft s hstage hl, fun s' => ?_, ?_⟩
      · simp only [finishFrom, m.stage, hstage, finishEncode_scanBody hl]
      · simp only [stepsLeft, m.stage, hstage, m.b]
        omega
    · refine ⟨_, microWork_of_scan_over s hstage hl, fun s' => ?_, ?_⟩
      · simp only [finishFrom, hstage, finishEncode_of_scan_over (Nat.not_lt.mp hl)]
        rfl
      · simp only [stepsLeft, hstage, Work.setStage_stage]
        omega
  | expand =>
    refine .inr ⟨_, microWork_of_expand s hstage, fun s' => ?_, by simp [stepsLeft, hstage]⟩
    simp only [finishFrom, hstage]
    rfl
  | timeAxis =>
    refine .inr ⟨_, microWork_of_timeAxis s hstage, fun s' => ?_, by simp [stepsLeft, hstage]⟩
    simp only [finishFrom, hstage]
    rfl
  | assemble =>
    left
    rw [microWork_of_assemble s hstage]
    simp only [finishFrom, hstage]

/-- The response of a transaction does not depend on what registers stand in the state. -/
theorem finishFrom_withWork (w v : Work) (s : State) : finishFrom w (s.withWork v) = finishFrom w s := by
  obtain ⟨r, hr⟩ := finishFrom_eq_unlessRaced w
  rw [hr, hr]
  cases w.raced <;> rfl

theorem microRun_succ {s s' : State} (h : microStep s = .next s') (k : Nat) : microRun (k + 1) s = microRun k s' := by
  simp only [microRun, h]

theorem microRun_one (s : State) : microRun 1 s = microStep s := by
  simp only [microRun]
  cases microStep s <;> rfl

theorem microRun_reaches_finishFrom (w : Work) (s : State) (hwork : s.work = some w) :
    ∃ k, k ≤ stepsLeft w ∧ microRun k s = .next (finishFrom w s) := by
  have hstep := microStep_of_work hwork
  rcases microWork_cases w s with hend | ⟨v, hv, hsame, hless⟩
  · refine ⟨1, ?_, by rw [microRun_one, hstep, hend]⟩
    unfold stepsLeft
    cases w.stage <;> simp only <;> omega
  · obtain ⟨k, hk, hrun⟩ := microRun_reaches_finishFrom v (s.withWork v) rfl
    exact ⟨k + 1, by omega, by rw [microRun_succ (hstep.trans (congrArg _ hv)), hrun, finishFrom_withWork, hsame]⟩
termination_by stepsLeft w

theorem microBound_of_work {s : State} {w : Work} (h : s.work = some w) :
    microBound s = w.inp.length + w.b.length + 5 := by
  simp only [microBound, h]

theorem microBound_of_command {s : State} {w : CommandWord} {inp : List Char} {rest : List HostAction}
    (hwork : s.work = none) (hissued : s.issued = .command w inp :: rest) : microBound s = inp.length + 6 := by
  simp only [microBound, hwork, hissued]

theorem microBound_of_racedCommand {s : State} {w : CommandWord} {rest : List HostAction}
    (hwork : s.work = none) (hissued : s.issued = .racedCommand w :: rest) : microBound s = 2 := by
  simp only [microBound, hwork, hissued]

theorem one_le_microBound (s : State) : 1 ≤ microBound s := by
  unfold microBound
  split
  · omega
  · split <;> omega

/-- A transaction rewritten before it began ends with its first stage, since no string stands in its registers. -/
theorem microWork_captureRaced (sch : SchemeId) (s : State) : microWork (Work.captureRaced sch) s = s.racedRespond := by
  rw [microWork_of_not_validInput s rfl (by simp [ValidInput]), Work.captureRaced_raced, State.unlessRaced_true]

theorem step_next_reached {s t : State} (h : step s = .next t) : ∃ k, k ≤ microBound s ∧ microRun k s = .next t := by
  rcases microStep_cases s with ⟨w, hwork, -⟩ | ⟨w, inp, rest, sch, hwork, hissued, hf, hs, hm⟩ |
    ⟨w, rest, sch, hwork, hissued, hs, hm⟩ | ⟨-, hm⟩
  · obtain ⟨k, hk, hrun⟩ := microRun_reaches_finishFrom w s hwork
    refine ⟨k, ?_, ?_⟩
    · rw [microBound_of_work hwork]
      exact hk.trans (stepsLeft_le w)
    · rw [hrun, ← step_of_work hwork, h]
  · obtain ⟨k, hk, hrun⟩ := microRun_reaches_finishFrom _ ({ s with issued := rest }.withWork (Work.capture sch inp)) rfl
    refine ⟨k + 1, ?_, ?_⟩
    · rw [microBound_of_command hwork hissued]
      simpa [stepsLeft] using hk
    · rw [microRun_succ hm, hrun, finishFrom_withWork, ← h, hs]
      exact (exec_encodeOf_eq_finishValidate sch (s := { s with issued := rest }) hf).symm
  · refine ⟨2, (microBound_of_racedCommand hwork hissued).ge, ?_⟩
    rw [microRun_succ hm, microRun_one, microStep_of_work rfl, microWork_captureRaced, ← h, hs]
    rfl
  · exact ⟨1, one_le_microBound s, by rw [microRun_one, hm, h]⟩

/-- A step refuses only between transactions, before anything is captured. -/
theorem microStep_of_step_refused {s : State} {r : Refusal} (h : step s = .refused r) : microStep s = .refused r := by
  rcases microStep_cases s with ⟨w, hwork, -⟩ | ⟨_, inp, rest, sch, -, -, hf, hs, -⟩ | ⟨_, _, _, -, -, hs, -⟩ | ⟨-, hm⟩
  · rw [step_of_work hwork] at h
    cases h
  · obtain ⟨r', hr'⟩ := exec_encodeOf_of_fits sch (s := { s with issued := rest }) hf
    rw [hs, hr'] at h
    cases h
  · rw [hs] at h
    cases h
  · rw [hm, h]

/-- Settles O32: the micro steps reach the step's state, and a refusal comes before any of them. -/
theorem microStepsReachStep : Obligations.MicroStepsReachStep :=
  ⟨fun _ _ => step_next_reached, fun _ _ => microStep_of_step_refused⟩

/-! ### The invariant of micro steps -/

/-- Settles O30: nothing is in flight, issued or answered after reset. -/
theorem resetMeetsMicroInvariant : Obligations.ResetMeetsMicroInvariant :=
  ⟨rfl, noRace_reset, fun _ hw => (by cases hw), fun _ hr => absurd hr List.not_mem_nil⟩

/-- A sound response has the right shape (40_pipeline.md R71). -/
theorem SoundResponse.shaped {p : Params} {r : Response} (h : SoundResponse p r) : ShapedResponse r := by
  cases r with
  | ok e =>
    obtain ⟨sch, inp, ⟨hne, -⟩, -, rfl⟩ := h
    refine ⟨?_, samples_length sch _, ?_⟩
    · simpa [resultOf, bitsOf] using hne
    · simp [resultOf]
  | schemeList l => exact h
  | err k => trivial

/-- A step of the loop keeps `Raw` at the levels of the bits consumed. -/
theorem scanBody_raw_length {sch : SchemeId} {w : Work} (h : w.cur < w.b.length)
    (hraw : w.raw.length = levelsPerBit sch * w.cur) :
    (scanBody sch w).raw.length = levelsPerBit sch * (scanBody sch w).cur := by
  obtain ⟨hcur, hle⟩ := (scanBody_move sch w h).cur
  have hlen := congrArg List.length (scanBody_trades sch w h)
  simp only [List.length_append, rawLevels_length, List.length_drop, hraw, Nat.mul_sub] at hlen
  have hmono := Nat.mul_le_mul_left (levelsPerBit sch) hle
  have hmono' := Nat.mul_le_mul_left (levelsPerBit sch) h.le
  omega

theorem workInv_scanBody {w : Work} (hstage : w.stage = .encode) (hl : w.cur < w.b.length) (h : WorkInv w) :
    WorkInv (scanBody w.scheme w) := by
  simp only [WorkInv, hstage] at h
  obtain ⟨hv, hb, -, hraw⟩ := h
  have m := scanBody_move w.scheme w hl
  simp only [WorkInv, m.stage, hstage, m.inp, m.b, m.scheme]
  exact ⟨hv, hb, m.cur.2, scanBody_raw_length hl hraw⟩

theorem workInv_setStage_expand {w : Work} (hstage : w.stage = .encode) (hl : ¬ w.cur < w.b.length) (h : WorkInv w) :
    WorkInv (w.setStage .expand) := by
  simp only [WorkInv, hstage] at h
  obtain ⟨hv, hb, hcur, hraw⟩ := h
  have hend : w.cur = w.b.length := Nat.le_antisymm hcur (Nat.not_lt.mp hl)
  exact ⟨hv, hb, hend, hend ▸ hraw⟩

theorem workInv_of_validInput {w : Work} (hstage : w.stage = .validate) (hv : ValidInput w.inp) (h : WorkInv w) :
    WorkInv ((w.setB (bitsOf w.inp)).setStage .encode) := by
  simp only [WorkInv, hstage] at h
  have hcur : w.cur = 0 := congrArg Work.cur h
  have hraw : w.raw = [] := congrArg Work.raw h
  exact ⟨hv, rfl, by simp [hcur], by simp [hcur, hraw]⟩

/-- A micro step of a transaction whose operand was not rewritten gives a response of the right shape or keeps the
invariant of the registers. -/
theorem microWork_keeps {w : Work} (s : State) (h : WorkInv w) (hraced : w.raced = false) :
    (∃ r, microWork w s = answered s r ∧ ShapedResponse r) ∨
      ∃ v, microWork w s = s.withWork v ∧ WorkInv v ∧ v.raced = false := by
  cases hstage : w.stage with
  | validate =>
    by_cases hv : ValidInput w.inp
    · exact .inr ⟨_, microWork_of_validInput s hstage hv, workInv_of_validInput hstage hv h, hraced⟩
    · refine .inl ⟨.err .invalidInput, ?_, trivial⟩
      rw [microWork_of_not_validInput s hstage hv, hraced]
      rfl
  | encode =>
    right
    by_cases hl : w.cur < w.b.length
    · exact ⟨_, microWork_of_bitsLeft s hstage hl, workInv_scanBody hstage hl h,
        (scanBody_move w.scheme w hl).raced.trans hraced⟩
    · exact ⟨_, microWork_of_scan_over s hstage hl, workInv_setStage_expand hstage hl h, hraced⟩
  | expand =>
    simp only [WorkInv, hstage] at h
    have ⟨_, _, _, hraw⟩ := h
    exact .inr ⟨_, microWork_of_expand s hstage, ⟨h, signalOf_length hraw⟩, hraced⟩
  | timeAxis =>
    simp only [WorkInv, hstage] at h
    obtain ⟨hscan, hsig⟩ := h
    exact .inr ⟨_, microWork_of_timeAxis s hstage, ⟨hscan, hsig, congrArg List.range hsig⟩, hraced⟩
  | assemble =>
    simp only [WorkInv, hstage] at h
    obtain ⟨⟨⟨hne, -⟩, hb, -, -⟩, hsig, htax⟩ := h
    refine .inl ⟨.ok { sig := w.sig, tax := w.tax, bits := w.b }, ?_, ?_, hsig, htax⟩
    · rw [microWork_of_assemble s hstage, finishAssemble, hraced]
      rfl
    · simpa [hb, bitsOf] using hne

theorem microInv_withWork {s : State} {w : Work} (h : MicroInv s) (hw : WorkInv w) (hraced : w.raced = false) :
    MicroInv (s.withWork w) := by
  obtain ⟨htable, hnorace, -, hshaped⟩ := h
  exact ⟨htable, ⟨hnorace.1, fun _ hv => Option.some.inj hv ▸ hraced⟩, fun _ hv => Option.some.inj hv ▸ hw, hshaped⟩

theorem microInv_answered {s : State} {r : Response} (h : MicroInv s) (hr : ShapedResponse r) :
    MicroInv (answered s r) := by
  obtain ⟨htable, hnorace, -, hshaped⟩ := h
  refine ⟨htable, noRace_answered r hnorace, fun _ hw => (by cases hw), fun r' hr' => ?_⟩
  rcases List.mem_append.mp hr' with hold | hnew
  · exact hshaped r' hold
  · exact List.mem_singleton.mp hnew ▸ hr

theorem microInv_take {s : State} {a : HostAction} {rest : List HostAction} (h : MicroInv s)
    (hissued : s.issued = a :: rest) : MicroInv { s with issued := rest } := by
  obtain ⟨htable, hnorace, hwork, hshaped⟩ := h
  exact ⟨htable, noRace_take hnorace hissued, hwork, hshaped⟩

/-- Between transactions a whole step keeps the invariant of micro steps, since a sound response has the right shape. -/
theorem microInv_step {s t : State} (h : MicroInv s) (hwork : s.work = none) (hstep : step s = .next t) :
    MicroInv t := by
  have ⟨htable, hnorace, _, _⟩ := h
  rcases step_noRace_cases hwork htable hnorace hstep with rfl | ⟨a, rest, hissued, rfl | ⟨r, hr, rfl⟩⟩
  · exact h
  · exact microInv_take h hissued
  · exact microInv_answered (microInv_take h hissued) hr.shaped

/-- Settles O31: a stage of the transaction in flight, the capture of an ENCODE, or a whole step. -/
theorem microStepKeepsInvariant : Obligations.MicroStepKeepsInvariant := by
  intro s t hinv hstep
  have ⟨_, hnorace, hw, _⟩ := hinv
  rcases microStep_cases s with ⟨w, hwork, hm⟩ | ⟨w, inp, rest, sch, -, hissued, -, -, hm⟩ |
    ⟨w, rest, sch, -, hissued, -, -⟩ | ⟨hwork, hm⟩
  · rw [hm] at hstep
    cases hstep
    rcases microWork_keeps s (hw w hwork) (hnorace.2 w hwork) with ⟨r, hr, hshaped⟩ | ⟨v, hv, hvinv, hraced⟩
    · exact hr ▸ microInv_answered hinv hshaped
    · exact hv ▸ microInv_withWork hinv hvinv hraced
  · rw [hm] at hstep
    cases hstep
    exact microInv_withWork (microInv_take hinv hissued) rfl rfl
  · exact absurd hissued (noRace_head hnorace)
  · exact microInv_step hinv hwork (hm ▸ hstep)

/-! ### The working registers, and a reset in flight -/

/-- Settles O26: the first micro step of an ENCODE leaves the captured registers, and a step ends with none. -/
theorem registersStartFresh : Obligations.RegistersStartFresh := by
  refine ⟨fun s sch inp rest hwork hissued hf => ?_, fun _ _ => step_work, fun _ => resetBlock_of_idle⟩
  have hm := microStep_of_decode_ok hwork hissued (decode_encodeOf sch inp)
  exact ⟨Work.capture sch inp, hm.trans (microBegin_of_fits sch hf), rfl, rfl, rfl, rfl, rfl, rfl, rfl, rfl, rfl, rfl⟩

/-- No micro step writes the parameters or the table. -/
theorem microStep_constants {s t : State} (h : microStep s = .next t) :
    t.params = s.params ∧ t.schemeTable = s.schemeTable := by
  rcases microStep_cases s with ⟨w, -, hm⟩ | ⟨_, _, _, _, -, -, -, -, hm⟩ | ⟨_, _, _, -, -, -, hm⟩ | ⟨-, hm⟩ <;>
    rw [hm] at h
  · cases h
    rcases microWork_cases w s with hend | ⟨v, hv, -, -⟩
    · obtain ⟨r, hr⟩ := finishFrom_responds w s
      rw [hend, hr]
      exact ⟨rfl, rfl⟩
    · rw [hv]
      exact ⟨rfl, rfl⟩
  · cases h
    exact ⟨rfl, rfl⟩
  · cases h
    exact ⟨rfl, rfl⟩
  · exact ⟨step_params h, step_schemeTable h⟩

theorem microRun_constants {k : Nat} {s t : State} (h : microRun k s = .next t) :
    t.params = s.params ∧ t.schemeTable = s.schemeTable := by
  induction k generalizing s with
  | zero =>
    cases h
    exact ⟨rfl, rfl⟩
  | succ k ih =>
    cases hm : microStep s with
    | next s' =>
      rw [microRun_succ hm] at h
      obtain ⟨hparams, htable⟩ := ih h
      obtain ⟨hparams', htable'⟩ := microStep_constants hm
      exact ⟨hparams.trans hparams', htable.trans htable'⟩
    | fault f => cases f
    | refused r =>
      rw [microRun, hm] at h
      cases h

/-- Settles O35: beside the working registers, which the reset drops, the state in flight differs from the one before the
transaction in the issued actions alone. -/
theorem resetInFlightLeavesNothing : Obligations.ResetInFlightLeavesNothing := by
  intro s t u w inp rest k captures hwork hissued hrun _ hrest hresponses hstep
  obtain ⟨hparams, htable⟩ := microRun_constants hrun
  have hreset : disturb captures .resetInFlight t = { s with issued := rest } := by
    rw [disturb, State.resetBlock, hparams, htable, hrest, hresponses, hwork]
  refine ⟨hreset, ?_⟩
  rw [hreset, ← hstep]
  exact congrArg step (by rw [← hissued])

end Sys2Proof.Safety
end

section
/-! PROOF. Sequences of transactions (20_memory.md R45, 70_reset_and_hazards.md R115, R118): each is answered for itself, in
issue order, and neither what waits behind it nor another block has a part in it. -/

namespace Sys2Proof.Safety

open Sys2Proof.Machine

/-! ### One transaction after another -/

theorem command_of_step_next {s t : State} {w : CommandWord} {inp : List Char} {rest : List HostAction}
    (hwork : s.work = none) (hissued : s.issued = .command w inp :: rest) (h : step s = .next t) :
    ∃ i, decode w inp = .ok i ∧ exec i { s with issued := rest } = .next t := by
  cases hd : decode w inp with
  | error r =>
    rw [step_of_decode_error hwork hissued hd] at h
    cases h
  | ok i => exact ⟨i, rfl, by rw [← step_of_decode_ok hwork hissued hd, h]⟩

/-- Settles O25: the second step executes the same command, whose response does not depend on the first. -/
theorem encodingTwiceIsIdentical : Obligations.EncodingTwiceIsIdentical := by
  intro s t w inp rest hwork hissued hstep
  obtain ⟨i, hd, hexec⟩ := command_of_step_next hwork hissued hstep
  obtain ⟨r, rfl⟩ := exec_next_answered hexec
  refine ⟨r, answered (answered { s with issued := rest } r) r, ?_, by simp, rfl⟩
  rw [step_of_decode_ok (rest := rest) rfl rfl hd]
  exact exec_answered_congr (s := { s with issued := .command w inp :: rest })
    (s' := answered { s with issued := rest } r) rfl rfl hexec

/-! ### The pure function of a transaction -/

theorem transact_encodeOf (p : Params) (sch : SchemeId) (inp : List Char) :
    transact p (0#1 ++ codeOfScheme sch) inp =
      if ¬ Fits p inp then none
      else if ValidInput inp then some (.ok (resultOf sch inp))
      else some (.err .invalidInput) := by
  cases sch <;> rfl

theorem transact_of_reserved (p : Params) {w : CommandWord} (inp : List Char) (h : Reserved w) :
    transact p w inp = none := by
  have hne : w ≠ 0x8#4 := by
    rintro rfl
    exact absurd h (by decide)
  have hnone : schemeTableConst[w.toNat]? = none := by
    refine List.getElem?_eq_none ?_
    rw [show schemeTableConst.length = 7 from rfl]
    rcases h with rfl | hge
    · decide
    · bv_omega
  simp [transact, hne, hnone]

/-- The step on a transaction that is not refused is the pure function of its word and operand (00_scope.md R17). -/
theorem step_of_transact {s : State} {w : CommandWord} {inp : List Char} {rest : List HostAction} {r : Response}
    (hwork : s.work = none) (htable : s.schemeTable = schemeTableConst)
    (hissued : s.issued = .command w inp :: rest) (hr : transact s.params w inp = some r) :
    step s = .next (answered { s with issued := rest } r) := by
  rcases decode_cases w inp with ⟨sch, rfl, hd⟩ | ⟨rfl, hd⟩ | ⟨hreserved, -⟩
  · rw [step_of_decode_ok hwork hissued hd]
    rw [transact_encodeOf] at hr
    split at hr
    · cases hr
    next hf =>
      rw [not_not] at hf
      split at hr <;> cases hr
      next hv => exact exec_encodeOf_eq_resultOf sch (s := { s with issued := rest }) hv hf
      next hv => exact exec_encodeOf_of_not_validInput sch (s := { s with issued := rest }) hf hv
  · cases hr
    rw [step_of_decode_ok hwork hissued hd, exec_listSchemes, htable]
  · rw [transact_of_reserved s.params inp hreserved] at hr
    cases hr

theorem run_succ {s s' : State} (h : step s = .next s') (k : Nat) :
    Host.Core.run core (k + 1) s = Host.Core.run core k s' := by
  have hcore : core.step s = .next s' := h
  simp only [Host.Core.run, hcore]

/-- Settles O33, by induction on the transactions issued. -/
theorem transactionsAnswerInOrder : Obligations.TransactionsAnswerInOrder := by
  intro s txs
  induction txs generalizing s with
  | nil =>
    intro rs _ _ hissued hrs
    obtain rfl : rs = [] := List.map_eq_nil_iff.mp hrs.symm
    cases s
    cases hissued
    simp [Host.Core.run]
  | cons x txs ih =>
    intro rs hwork htable hissued hrs
    cases rs with
    | nil => cases hrs
    | cons r rs =>
      obtain ⟨hr, hrest⟩ := List.cons_eq_cons.mp hrs
      have hrun := ih (answered { s with issued := txs.map (fun x => .command x.1 x.2) } r) rs rfl htable rfl hrest
      rw [List.length_cons, run_succ (step_of_transact hwork htable hissued hr)]
      refine hrun.trans ?_
      simp [answered, hwork]

/-! ### The step on a state with other actions issued -/

theorem step_issued_command {s : State} {w : CommandWord} {inp : List Char} {i : Instr} (rest : List HostAction)
    (hwork : s.work = none) (hd : decode w inp = .ok i) :
    step { s with issued := .command w inp :: rest } = exec i { s with issued := rest } :=
  step_of_decode_ok (s := { s with issued := .command w inp :: rest }) hwork rfl hd

theorem step_issued_racedCommand {s : State} {w : CommandWord} {i : Instr} (rest : List HostAction)
    (hwork : s.work = none) (hd : decode w [] = .ok i) :
    step { s with issued := .racedCommand w :: rest } = racedTransaction i { s with issued := rest } :=
  step_of_raced_decode_ok (s := { s with issued := .racedCommand w :: rest }) hwork rfl hd

theorem racedTransaction_listSchemes (s : State) : racedTransaction .listSchemes s = exec .listSchemes s := rfl

/-! ### A host that writes an operand -/

theorem step_setRaced {s : State} {w : Work} : step (s.withWork w.setRaced) = .next s.racedRespond := by
  rw [step_of_work rfl, finishFrom_raced _ _ w.setRaced_raced]
  rfl

theorem disturb_hostWritesInput {s : State} {w : Work} (h : s.work = some w) :
    disturb false .hostWritesInput s = s.withWork w.setRaced := by
  simp [disturb, h]

theorem disturb_hostWritesIssued_head {s : State} {w : CommandWord} {inp : List Char} {rest : List HostAction}
    (h : s.issued = .command w inp :: rest) :
    disturb false (.hostWritesIssued 0) s = { s with issued := .racedCommand w :: rest } := by
  simp [disturb, h, raceIssued, raceAction]

theorem step_of_raced_reserved {s : State} {w : CommandWord} {rest : List HostAction} (hwork : s.work = none)
    (hissued : s.issued = .racedCommand w :: rest) (h : Reserved w) : step s = .refused (.reservedCommand w) := by
  simp [step, hwork, takeAction, hissued, decode_of_reserved h, refusalOf]

theorem encode_word_le (sch : SchemeId) : 0#1 ++ codeOfScheme sch ≤ 0x6#4 := by
  cases sch <;> decide

/-- Settles O36: a rewritten ENCODE, in flight or next to begin, ends in the free response, and neither LIST_SCHEMES nor a
reserved word reads the operand. -/
theorem hostWriteDuringTransaction : Obligations.HostWriteDuringTransaction := by
  refine ⟨fun s k => ⟨?_, rfl⟩, fun s captures hne => ?_, fun s w inp rest hwork hissued => ⟨fun hw => ?_, fun hw => ?_⟩⟩
  · cases hwork : s.work <;> simp [disturb, hwork]
  · obtain ⟨w, hw⟩ := Option.ne_none_iff_exists'.mp hne
    rw [disturb_hostWritesInput hw]
    exact ⟨step_setRaced, rfl⟩
  · obtain ⟨sch, rfl⟩ := exists_scheme_of_le hw
    rw [disturb_hostWritesIssued_head hissued, step_issued_racedCommand rest hwork (decode_encodeOf sch []),
      racedTransaction_encodeOf]
    rfl
  · rw [disturb_hostWritesIssued_head hissued]
    rcases decode_cases w inp with ⟨sch, rfl, -⟩ | ⟨rfl, hd⟩ | ⟨hreserved, -⟩
    · exact absurd (encode_word_le sch) hw
    · rw [step_of_decode_ok hwork hissued hd, step_issued_racedCommand rest hwork (decode_listSchemes []),
        racedTransaction_listSchemes]
    · rw [reservedWordsAreRefused s w inp rest hwork hissued hreserved]
      exact step_of_raced_reserved (s := { s with issued := .racedCommand w :: rest }) hwork rfl hreserved

/-- What waits behind the first action has no part in the step, and is what the step leaves issued. -/
theorem step_replace_waiting {s t : State} {a : HostAction} {rest : List HostAction} (rest' : List HostAction)
    (hwork : s.work = none) (hissued : s.issued = a :: rest) (h : step s = .next t) :
    t.issued = rest ∧ step { s with issued := a :: rest' } = .next { t with issued := rest' } := by
  cases a with
  | reset =>
    rw [resetBetweenChangesNothing s rest hwork hissued] at h
    cases h
    exact ⟨rfl, resetBetweenChangesNothing { s with issued := .reset :: rest' } rest' hwork rfl⟩
  | command w inp =>
    obtain ⟨i, hd, hexec⟩ := command_of_step_next hwork hissued h
    obtain ⟨r, rfl⟩ := exec_next_answered hexec
    refine ⟨rfl, ?_⟩
    rw [step_issued_command rest' hwork hd]
    exact exec_answered_congr (s := { s with issued := rest }) (s' := { s with issued := rest' }) rfl rfl hexec
  | racedCommand w =>
    rcases decode_cases w [] with ⟨sch, -, hd⟩ | ⟨-, hd⟩ | ⟨hreserved, -⟩
    · rw [step_of_raced_decode_ok hwork hissued hd, racedTransaction_encodeOf] at h
      cases h
      exact ⟨rfl, by rw [step_issued_racedCommand rest' hwork hd, racedTransaction_encodeOf]; rfl⟩
    · rw [step_of_raced_decode_ok hwork hissued hd] at h
      cases h
      exact ⟨rfl, step_issued_racedCommand rest' hwork hd⟩
    · rw [step_of_raced_reserved hwork hissued hreserved] at h
      cases h

/-- Settles O59: the write changes only what waits behind the first action. -/
theorem hostWriteRacesOnlyItsTransaction : Obligations.HostWriteRacesOnlyItsTransaction := by
  intro s t captures a rest k hwork hissued hstep
  obtain ⟨hrest, hwrite⟩ := step_replace_waiting (raceIssued k rest) hwork hissued hstep
  cases captures
  · simpa [disturb, hissued, raceIssued, hrest] using hwrite
  · exact hstep

/-! ### Instances -/

/-- Stepping one block of a list sets its place to the state that its step gives; a number past the list sets none. -/
theorem stepInstance_eq_next_iff (k : Nat) (sys a : List State) :
    stepInstance k sys = .next a ↔ ∃ t, a = sys.set k t ∧ ∀ s, sys[k]? = some s → step s = .next t := by
  cases hk : sys[k]? with
  | none =>
    have hset : ∀ t, sys.set k t = sys := fun t => List.set_eq_of_length_le (List.getElem?_eq_none_iff.mp hk)
    simp only [stepInstance, hk, hset, Host.Outcome.next.injEq, reduceCtorEq, false_implies, implies_true, and_true]
    exact ⟨fun h => ⟨State.reset, h.symm⟩, fun ⟨_, h⟩ => h.symm⟩
  | some s =>
    cases hs : step s with
    | next t =>
      simp only [stepInstance, hk, hs, Host.Outcome.next.injEq, Option.some.injEq, forall_eq']
      exact ⟨fun h => ⟨t, h.symm, rfl⟩, fun ⟨_, ha, ht⟩ => by rw [ha, ← ht]⟩
    | fault f => cases f
    | refused r => simp [stepInstance, hk, hs]

/-- Settles O58: the two steps set two different places of the list. -/
theorem instancesAreIndependent : Obligations.InstancesAreIndependent := by
  intro sys a b j k hjk hj hk
  obtain ⟨tj, rfl, hstepj⟩ := (stepInstance_eq_next_iff j sys a).mp hj
  obtain ⟨tk, rfl, hstepk⟩ := (stepInstance_eq_next_iff k sys b).mp hk
  refine ⟨⟨(sys.set j tj).set k tk, ?_, ?_⟩, fun m hm => List.getElem?_set_ne hm.symm⟩
  · refine (stepInstance_eq_next_iff k _ _).mpr ⟨tk, rfl, fun s hs => hstepk s ?_⟩
    rwa [List.getElem?_set_ne hjk] at hs
  · refine (stepInstance_eq_next_iff j _ _).mpr ⟨tj, List.set_comm tj tk hjk, fun s hs => hstepj s ?_⟩
    rwa [List.getElem?_set_ne hjk.symm] at hs

end Sys2Proof.Safety
end

section
/-! PROOF. The closed forms of the encoders (41_nrz.md to 44_b8zs.md) and what holds of every result (40_pipeline.md §7),
each by induction on the bits with the state register general. -/

namespace Sys2Proof.Safety

open Sys2Proof.Machine

/-! ### Bits, polarities and samples -/

theorem bitsOf_take (inp : List Char) (k : Nat) : (bitsOf inp).take k = bitsOf (inp.take k) := List.map_take.symm

theorem bitsOf_getElem? (inp : List Char) (k : Nat) : (bitsOf inp)[k]? = inp[k]?.map bitOfChar := List.getElem?_map

theorem bitOfChar_eq_zero_iff (c : Char) : bitOfChar c = .zero ↔ c = '0' := by
  by_cases h : c = '0' <;> simp [bitOfChar, h]

theorem bitOfChar_eq_one_iff {c : Char} (hc : c = '0' ∨ c = '1') : bitOfChar c = .one ↔ c = '1' := by
  rcases hc with rfl | rfl <;> decide

theorem count_zero_bitsOf (inp : List Char) : (bitsOf inp).count .zero = inp.count '0' := by
  induction inp with
  | nil => rfl
  | cons c inp ih =>
    have hcons : bitsOf (c :: inp) = bitOfChar c :: bitsOf inp := rfl
    simp [hcons, List.count_cons, ih, bitOfChar_eq_zero_iff]

theorem count_one_bitsOf {inp : List Char} (h : ∀ c ∈ inp, c = '0' ∨ c = '1') :
    (bitsOf inp).count .one = inp.count '1' := by
  induction inp with
  | nil => rfl
  | cons c inp ih =>
    have hcons : bitsOf (c :: inp) = bitOfChar c :: bitsOf inp := rfl
    have hc := bitOfChar_eq_one_iff (h c List.mem_cons_self)
    simp [hcons, List.count_cons, ih fun d hd => h d (List.mem_cons_of_mem c hd), hc]

theorem count_one_bitsOf_take {inp : List Char} (h : ∀ c ∈ inp, c = '0' ∨ c = '1') (k : Nat) :
    ((bitsOf inp).take k).count .one = (inp.take k).count '1' := by
  rw [bitsOf_take, count_one_bitsOf fun c hc => h c (List.mem_of_mem_take hc)]

theorem count_zero_bitsOf_take (inp : List Char) (k : Nat) :
    ((bitsOf inp).take k).count .zero = (inp.take k).count '0' := by
  rw [bitsOf_take, count_zero_bitsOf]

theorem alternating_succ (j : Nat) : alternating (j + 1) = (alternating j).opp := by
  rcases Nat.mod_two_eq_zero_or_one j with h | h <;> simp [alternating, h, Nat.add_mod, Level.opp]

theorem iterate_opp_plus (j : Nat) : Pol.opp^[j] .plus = if j % 2 = 0 then .plus else .minus := by
  induction j with
  | zero => rfl
  | succ j ih =>
    rw [Function.iterate_succ_apply', ih]
    rcases Nat.mod_two_eq_zero_or_one j with h | h <;> simp [h, Nat.add_mod, Pol.opp]

/-- A polarity inverted once for each of `j` bits, from +1, is `(−1)^j`. -/
theorem iterate_opp_plus_toLevel (j : Nat) : (Pol.opp^[j] .plus).toLevel = alternating j := by
  rw [iterate_opp_plus, alternating]
  split <;> rfl

theorem iterate_opp_minus_toLevel (j : Nat) : (Pol.opp^[j] .minus).toLevel = (alternating j).opp := by
  rw [show Pol.minus = Pol.opp .plus from rfl, ← Function.iterate_succ_apply, iterate_opp_plus_toLevel, alternating_succ]

/-- Two samples a bit, each a function of the bit's level: where they stand (40_pipeline.md R67). -/
theorem getElem?_flatMap_pair {α : Type} (f g : α → Level) (xs : List α) (k : Nat) :
    (xs.flatMap (fun x => [f x, g x]))[2 * k]? = xs[k]?.map f ∧
      (xs.flatMap (fun x => [f x, g x]))[2 * k + 1]? = xs[k]?.map g := by
  induction xs generalizing k with
  | nil => simp
  | cons x xs ih =>
    cases k with
    | zero => simp
    | succ k => simpa [Nat.mul_succ] using ih k

theorem getElem?_double (raw : List Level) (k : Nat) :
    (raw.flatMap (fun v => [v, v]))[2 * k]? = raw[k]? ∧ (raw.flatMap (fun v => [v, v]))[2 * k + 1]? = raw[k]? := by
  simpa using getElem?_flatMap_pair id id raw k

theorem getElem?_double_even (raw : List Level) (k : Nat) : (raw.flatMap (fun v => [v, v]))[2 * k]? = raw[k]? :=
  (getElem?_double raw k).1

theorem getElem?_double_odd (raw : List Level) (k : Nat) : (raw.flatMap (fun v => [v, v]))[2 * k + 1]? = raw[k]? :=
  (getElem?_double raw k).2

/-! ### NRZ -/

/-- The level of a bit in NRZ-L, which Manchester sends first (41_nrz.md R76, 43_manchester.md R84). -/
def nrzLevel (x : Bit) : Level :=
  match x with
  | .zero => .pos
  | .one => .neg

theorem nrzLevel_toInt (x : Bit) : (nrzLevel x).toInt = 1 - 2 * (x.toNat : Int) := by cases x <;> rfl

theorem nrzLLevels_eq_map (bits : List Bit) : nrzLLevels bits = bits.map nrzLevel := rfl

theorem nrzILevels_getElem? (p : Pol) (bits : List Bit) (k : Nat) (h : k < bits.length) :
    (nrzILevels p bits)[k]? = some (Pol.opp^[(bits.take (k + 1)).count .one] p).toLevel := by
  induction bits generalizing p k with
  | nil => cases h
  | cons x rest ih =>
    have hk : ∀ j, k = j + 1 → j < rest.length := by
      rintro j rfl
      exact Nat.lt_of_succ_lt_succ h
    cases x <;> cases k with
    | zero => simp [nrzILevels]
    | succ j => simp [nrzILevels, ih _ j (hk j rfl)]

/-- Settles O37: each bit's level stands twice, and is 1 − 2·b. -/
theorem nrzLClosedForm : Obligations.NrzLClosedForm := by
  intro s inp hv hf
  refine ⟨resultOf .nrzL inp, exec_encodeOf_eq_resultOf .nrzL hv hf, ?_, fun k x hx => ?_⟩
  · rw [resultOf, samples_length, bitsOf_length]
  · simp only [resultOf, samples, getElem?_double_even, getElem?_double_odd, nrzLLevels_eq_map, List.getElem?_map, hx,
      Option.map_some, nrzLevel_toInt, and_self]

/-- Settles O38: the register before the emit has been inverted once for every 1 so far, from −1. -/
theorem nrzIClosedForm : Obligations.NrzIClosedForm := by
  intro s inp hv hf
  obtain ⟨-, hchars⟩ := (validInput_iff inp).mp hv
  refine ⟨resultOf .nrzI inp, exec_encodeOf_eq_resultOf .nrzI hv hf, fun k hk => ?_⟩
  have hlevel := nrzILevels_getElem? .minus (bitsOf inp) k (by simpa using hk)
  rw [count_one_bitsOf_take hchars, iterate_opp_minus_toLevel] at hlevel
  simp only [resultOf, samples, getElem?_double_even, getElem?_double_odd, hlevel, and_self]

/-! ### Bipolar-AMI and Pseudoternary -/

/-- What AMI emits for a bit after `j` 1s, from a polarity (42_ami.md R80). -/
def amiLevel (p : Pol) (j : Nat) (x : Bit) : Level :=
  match x with
  | .zero => .zero
  | .one => (Pol.opp^[j] p).toLevel

theorem amiLevel_opp (p : Pol) (j : Nat) : amiLevel p.opp j = amiLevel p (j + 1) := by
  funext x
  cases x <;> rfl

theorem amiLevels_getElem? (p : Pol) (bits : List Bit) (k : Nat) :
    (amiLevels p bits)[k]? = bits[k]?.map (amiLevel p ((bits.take k).count .one)) := by
  induction bits generalizing p k with
  | nil => rfl
  | cons x rest ih =>
    cases x <;> cases k with
    | zero => simp [amiLevels, amiLevel]
    | succ j => simp [amiLevels, ih _ j, amiLevel_opp]

/-- The first pulse has the polarity of the register. -/
theorem amiLevels_first_pulse {p : Pol} {bits : List Bit} {k : Nat} {w : Level} (hk : (amiLevels p bits)[k]? = some w)
    (hw : w ≠ .zero) (hzero : ∀ m, m < k → (amiLevels p bits)[m]? = some .zero) : w = p.toLevel := by
  induction bits generalizing k with
  | nil => cases hk
  | cons x rest ih =>
    cases x with
    | zero =>
      cases k with
      | zero => exact absurd (Option.some.inj hk).symm hw
      | succ k => exact ih hk fun m hm => hzero (m + 1) (Nat.succ_lt_succ hm)
    | one =>
      cases k with
      | zero => exact (Option.some.inj hk).symm
      | succ k => exact absurd (Option.some.inj (hzero 0 k.succ_pos)) p.toLevel_ne_zero

theorem amiLevels_no_violation {p : Pol} {bits : List Bit} {j k : Nat} {v w : Level} (hjk : j < k)
    (hj : (amiLevels p bits)[j]? = some v) (hk : (amiLevels p bits)[k]? = some w) (hv : v ≠ .zero) (hw : w ≠ .zero)
    (hzero : ∀ m, j < m → m < k → (amiLevels p bits)[m]? = some .zero) : w = v.opp := by
  obtain ⟨k, rfl⟩ : ∃ i, k = i + 1 := ⟨k - 1, by omega⟩
  induction bits generalizing p j k with
  | nil => cases hk
  | cons x rest ih =>
    cases j with
    | zero =>
      cases x with
      | zero => exact absurd (Option.some.inj hj).symm hv
      | one =>
        obtain rfl := Option.some.inj hj
        rw [← Pol.toLevel_opp]
        exact amiLevels_first_pulse hk hw fun m hm => hzero (m + 1) m.succ_pos (Nat.succ_lt_succ hm)
    | succ j =>
      obtain ⟨k, rfl⟩ : ∃ i, k = i + 1 := ⟨k - 1, by omega⟩
      have hzero' := fun m (hjm : j < m) (hmk : m < k + 1) =>
        hzero (m + 1) (Nat.succ_lt_succ hjm) (Nat.succ_lt_succ hmk)
      cases x <;> exact ih hj k (Nat.lt_of_succ_lt_succ hjk) hk hzero'

theorem ptLevels_eq_amiLevels (p : Pol) (bits : List Bit) : ptLevels p bits = amiLevels p (bits.map Bit.flip) := by
  induction bits generalizing p with
  | nil => rfl
  | cons x rest ih => cases x <;> simp [ptLevels, amiLevels, Bit.flip, ih]

/-- Settles O39: the register has been inverted once for every 1 before the bit, from +1. -/
theorem bipolarAmiClosedForm : Obligations.BipolarAmiClosedForm := by
  intro s inp hv hf
  obtain ⟨-, hchars⟩ := (validInput_iff inp).mp hv
  refine ⟨resultOf .bipolarAmi inp, exec_encodeOf_eq_resultOf .bipolarAmi hv hf, fun k hk => ?_⟩
  have hlevel := amiLevels_getElem? .plus (bitsOf inp) k
  rw [count_one_bitsOf_take hchars, bitsOf_getElem?, List.getElem?_eq_getElem hk] at hlevel
  simp only [resultOf, samples, getElem?_double_even, getElem?_double_odd, hlevel, and_true,
    List.getElem?_eq_getElem hk]
  rcases hchars _ (List.getElem_mem hk) with hc | hc
  · simp [hc, bitOfChar, amiLevel]
  · simp [hc, bitOfChar, amiLevel, iterate_opp_plus_toLevel]

/-- Settles O40: the even samples are the levels, which hold no violation. -/
theorem bipolarAmiHasNoViolation : Obligations.BipolarAmiHasNoViolation := by
  intro s inp hv hf
  refine ⟨resultOf .bipolarAmi inp, exec_encodeOf_eq_resultOf .bipolarAmi hv hf, ?_⟩
  simp only [resultOf, samples, getElem?_double_even]
  intro j k v w hjk hj hk hvne hwne hzero
  exact amiLevels_no_violation hjk hj hk hvne hwne hzero

/-- Settles O41: the two operands have one length, so both fit. -/
theorem pseudoternaryIsAmiOfFlippedBits : Obligations.PseudoternaryIsAmiOfFlippedBits := by
  intro s inp inp' hv hv' hf hflip
  have hlen : inp'.length = inp.length := by simpa using congrArg List.length hflip
  have hf' : Fits s.params inp' := by
    rw [fits_iff] at hf ⊢
    rwa [hlen]
  refine ⟨resultOf .pseudoternary inp, resultOf .bipolarAmi inp', exec_encodeOf_eq_resultOf .pseudoternary hv hf,
    exec_encodeOf_eq_resultOf .bipolarAmi hv' hf', ?_⟩
  simp only [resultOf, samples, ptLevels_eq_amiLevels, hflip]

/-! ### Manchester -/

theorem manchesterLevels_eq_flatMap (bits : List Bit) :
    manchesterLevels bits = bits.flatMap (fun x => [nrzLevel x, (nrzLevel x).opp]) :=
  List.flatMap_congr fun x _ => by cases x <;> rfl

theorem manchesterLevels_getElem? (bits : List Bit) (k : Nat) :
    (manchesterLevels bits)[2 * k]? = bits[k]?.map nrzLevel ∧
      (manchesterLevels bits)[2 * k + 1]? = bits[k]?.map (fun x => (nrzLevel x).opp) := by
  rw [manchesterLevels_eq_flatMap]
  exact getElem?_flatMap_pair nrzLevel (fun x => (nrzLevel x).opp) bits k

/-- The second sample of a bit and the first of the next differ exactly where the two bits are equal. -/
theorem nrzLevel_opp_ne_iff (x y : Bit) : (nrzLevel x).opp ≠ nrzLevel y ↔ x = y := by
  cases x <;> cases y <;> decide

/-- Settles O42: a bit sends its NRZ-L level and then the opposite. -/
theorem manchesterClosedForm : Obligations.ManchesterClosedForm := by
  intro s inp hv hf
  refine ⟨resultOf .manchester inp, exec_encodeOf_eq_resultOf .manchester hv hf, fun k x hx => ?_, fun k hk => ?_⟩
  · obtain ⟨heven, hodd⟩ := manchesterLevels_getElem? (bitsOf inp) k
    simp only [resultOf, samples, heven, hodd, hx, Option.map_some, nrzLevel_toInt, Level.toInt_opp, true_and]
    congr 1
    omega
  · have hk1 : k < (bitsOf inp).length := by simpa using Nat.lt_of_succ_lt hk
    have hk2 : k + 1 < (bitsOf inp).length := by simpa using hk
    obtain ⟨-, hodd⟩ := manchesterLevels_getElem? (bitsOf inp) k
    obtain ⟨heven, -⟩ := manchesterLevels_getElem? (bitsOf inp) (k + 1)
    rw [Nat.mul_succ] at heven
    simp only [resultOf, samples, heven, hodd, List.getElem?_eq_getElem hk1, List.getElem?_eq_getElem hk2,
      Option.map_some, ne_eq, Option.some.injEq]
    exact nrzLevel_opp_ne_iff _ _

/-- The reference level before bit `k` is inverted once for every 0 before it (43_manchester.md R86). -/
theorem dmLevels_getElem? (p : Pol) (bits : List Bit) (k : Nat) (h : k < bits.length) :
    (dmLevels p bits)[2 * k]? = some (Pol.opp^[(bits.take k).count .zero] p).toLevel.opp ∧
      (dmLevels p bits)[2 * k + 1]? = some (Pol.opp^[(bits.take k).count .zero] p).toLevel := by
  induction bits generalizing p k with
  | nil => cases h
  | cons x rest ih =>
    have hk : ∀ j, k = j + 1 → j < rest.length := by
      rintro j rfl
      exact Nat.lt_of_succ_lt_succ h
    cases x <;> cases k with
    | zero => simp [dmLevels]
    | succ j => simp [dmLevels, Nat.mul_succ, ih _ j (hk j rfl)]

/-- The last bit settles only the second half of its own pair, which the reference before it gives. -/
theorem dmLevels_concat (p : Pol) (bits : List Bit) (x y : Bit) :
    dmLevels p (bits ++ [x]) = dmLevels p (bits ++ [y]) := by
  induction bits generalizing p with
  | nil => cases x <;> cases y <;> simp [dmLevels]
  | cons b rest ih => cases b <;> simp [dmLevels, ih]

theorem alternating_opp_ne_iff (z : Nat) (x : Bit) :
    (alternating z).opp ≠ alternating (z + [x].count .zero) ↔ x = .one := by
  have hne : (alternating z).opp ≠ alternating z := by
    unfold alternating
    split <;> decide
  cases x
  · simp [alternating_succ]
  · simpa using hne

/-- Settles O43: the count of 0s goes up after bit `k`, and the sign with it, exactly when the bit is a 0. -/
theorem differentialManchesterClosedForm : Obligations.DifferentialManchesterClosedForm := by
  intro s inp hv hf
  have hlevels : ∀ k, k < inp.length →
      (resultOf .differentialManchester inp).sig[2 * k]? = some (alternating ((inp.take k).count '0')) ∧
        (resultOf .differentialManchester inp).sig[2 * k + 1]? = some (alternating ((inp.take k).count '0')).opp := by
    intro k hk
    have h := dmLevels_getElem? .minus (bitsOf inp) k (by simpa using hk)
    rwa [count_zero_bitsOf_take, iterate_opp_minus_toLevel, Level.opp_opp] at h
  refine ⟨resultOf .differentialManchester inp, exec_encodeOf_eq_resultOf .differentialManchester hv hf, hlevels,
    fun k hk => ?_⟩
  have hk' := Nat.lt_of_succ_lt hk
  obtain ⟨-, hodd⟩ := hlevels k hk'
  obtain ⟨heven, -⟩ := hlevels (k + 1) hk
  have hcount : (inp.take (k + 1)).count '0' = (inp.take k).count '0' + [bitOfChar inp[k]].count .zero := by
    rw [List.take_succ_eq_append_getElem hk', List.count_append, ← count_zero_bitsOf [inp[k]]]
    rfl
  obtain ⟨-, hchars⟩ := (validInput_iff inp).mp hv
  rw [Nat.mul_succ] at heven
  rw [hodd, heven, hcount, List.getElem?_eq_getElem hk', ne_eq, Option.some.injEq, Option.some.injEq, ← ne_eq,
    alternating_opp_ne_iff, bitOfChar_eq_one_iff (hchars _ (List.getElem_mem hk'))]

/-- Settles O44: the operands differ in a bit that the levels do not show. -/
theorem differentialManchesterHidesLastBit : Obligations.DifferentialManchesterHidesLastBit := by
  intro s pre hpre hf
  have hvalid : ∀ c, c = '0' ∨ c = '1' → ValidInput (pre ++ [c]) := by
    intro c hc
    refine (validInput_iff _).mpr ⟨by simp, fun d hd => ?_⟩
    rcases List.mem_append.mp hd with hd | hd
    · exact hpre d hd
    · rwa [List.mem_singleton.mp hd]
  have hf' : Fits s.params (pre ++ ['1']) := by
    rw [fits_iff] at hf ⊢
    simpa using hf
  refine ⟨_, _, exec_encodeOf_eq_resultOf .differentialManchester (hvalid '0' (.inl rfl)) hf,
    exec_encodeOf_eq_resultOf .differentialManchester (hvalid '1' (.inr rfl)) hf', ?_⟩
  simp only [resultOf, samples, bitsOf_append]
  exact dmLevels_concat _ _ _ _

/-! ### Every result -/

theorem resultOf_sig_length (sch : SchemeId) (inp : List Char) : (resultOf sch inp).sig.length = 2 * inp.length := by
  rw [resultOf, samples_length, bitsOf_length]

theorem resultOf_tax_length (sch : SchemeId) (inp : List Char) :
    (resultOf sch inp).tax.length = (resultOf sch inp).sig.length := by
  rw [resultOf_sig_length, resultOf, List.length_range]

/-- Settles O48, by the lengths of the three sequences of a result. -/
theorem resultLengths : Obligations.ResultLengths :=
  fun _ sch inp hv hf => ⟨resultOf sch inp, exec_encodeOf_eq_resultOf sch hv hf, resultOf_sig_length sch inp,
    resultOf_tax_length sch inp, bitsOf_length inp⟩

/-- Settles O51: the time axis is the first `2n` natural numbers. -/
theorem timeAxisOfEveryResult : Obligations.TimeAxisOfEveryResult := by
  intro s sch inp hv hf
  refine ⟨resultOf sch inp, exec_encodeOf_eq_resultOf sch hv hf, resultOf_tax_length sch inp, List.pairwise_lt_range,
    fun i hi => ?_⟩
  rw [resultOf_sig_length] at hi
  exact List.getElem?_range hi

/-- The samples of the five expanded schemes are levels doubled in place (40_pipeline.md R67). -/
theorem samples_eq_double {sch : SchemeId} (h : ¬ (sch = .manchester ∨ sch = .differentialManchester))
    (bits : List Bit) : samples sch bits = (rawLevels sch (schemeReg sch (Work.capture sch [])) bits).flatMap
      (fun v => [v, v]) := by
  cases sch
  case manchester => exact absurd (.inl rfl) h
  case differentialManchester => exact absurd (.inr rfl) h
  all_goals rfl

/-- The samples of the two Manchester schemes come in opposite pairs, none of them 0 (40_pipeline.md R68). -/
theorem samples_opposite_pair {sch : SchemeId} (h : sch = .manchester ∨ sch = .differentialManchester)
    (bits : List Bit) (k : Nat) (hk : k < bits.length) :
    ∃ p : Pol, (samples sch bits)[2 * k]? = some p.toLevel ∧ (samples sch bits)[2 * k + 1]? = some p.toLevel.opp := by
  rcases h with rfl | rfl
  · obtain ⟨heven, hodd⟩ := manchesterLevels_getElem? bits k
    rw [List.getElem?_eq_getElem hk] at heven hodd
    cases hx : bits[k] <;> rw [hx] at heven hodd
    · exact ⟨.plus, heven, hodd⟩
    · exact ⟨.minus, heven, hodd⟩
  · obtain ⟨heven, hodd⟩ := dmLevels_getElem? .minus bits k hk
    exact ⟨(Pol.opp^[(bits.take k).count .zero] .minus).opp, by rw [Pol.toLevel_opp]; exact heven,
      by rw [Pol.toLevel_opp, Level.opp_opp]; exact hodd⟩

/-- Settles O49: a Manchester pair is a polarity and its opposite; every other pair is one level twice. -/
theorem stepPropertyOrMidBitTransition : Obligations.StepPropertyOrMidBitTransition := by
  intro s sch inp hv hf
  refine ⟨resultOf sch inp, exec_encodeOf_eq_resultOf sch hv hf, fun k hk => ?_⟩
  have hk' : k < (bitsOf inp).length := by simpa using hk
  by_cases h : sch = .manchester ∨ sch = .differentialManchester
  · obtain ⟨p, heven, hodd⟩ := samples_opposite_pair h (bitsOf inp) k hk'
    refine ⟨p.toLevel, p.toLevel.opp, heven, hodd, ?_⟩
    rw [if_pos h]
    exact ⟨rfl, by cases p <;> decide⟩
  · have hlen : 2 * k < (samples sch (bitsOf inp)).length := by
      rw [samples_length]
      omega
    obtain ⟨v, heven⟩ : ∃ v, (samples sch (bitsOf inp))[2 * k]? = some v := ⟨_, List.getElem?_eq_getElem hlen⟩
    refine ⟨v, v, heven, ?_, by rw [if_neg h]⟩
    rw [samples_eq_double h, getElem?_double_even] at heven
    rw [resultOf, samples_eq_double h, getElem?_double_odd, heven]

theorem nrzILevels_ne_zero (p : Pol) (bits : List Bit) : Level.zero ∉ nrzILevels p bits := by
  induction bits generalizing p with
  | nil => simp [nrzILevels]
  | cons x rest ih => cases x <;> cases p <;> simp [nrzILevels, ih, Pol.opp, Pol.toLevel]

theorem dmLevels_ne_zero (p : Pol) (bits : List Bit) : Level.zero ∉ dmLevels p bits := by
  induction bits generalizing p with
  | nil => simp [dmLevels]
  | cons x rest ih => cases x <;> cases p <;> simp [dmLevels, ih, Pol.opp, Pol.toLevel, Level.opp]

theorem nrzLevel_ne_zero (x : Bit) : nrzLevel x ≠ .zero ∧ (nrzLevel x).opp ≠ .zero := by cases x <;> decide

/-- Settles O50: every level of the four schemes is a polarity. -/
theorem twoLevelSchemesNeverGiveZero : Obligations.TwoLevelSchemesNeverGiveZero := by
  intro s sch inp hv hf hsch
  refine ⟨resultOf sch inp, exec_encodeOf_eq_resultOf sch hv hf, ?_⟩
  simp only [List.mem_cons, List.not_mem_nil, or_false] at hsch
  rcases hsch with rfl | rfl | rfl | rfl
  · simp [resultOf, samples, nrzLLevels_eq_map, nrzLevel_ne_zero]
  · simp [resultOf, samples, nrzILevels_ne_zero]
  · simp only [resultOf, samples, manchesterLevels_eq_flatMap, List.mem_flatMap, List.mem_cons, List.not_mem_nil,
      or_false, not_exists, not_and, not_or]
    exact fun x _ => ⟨(nrzLevel_ne_zero x).1.symm, (nrzLevel_ne_zero x).2.symm⟩
  · exact dmLevels_ne_zero .minus _

end Sys2Proof.Safety
end

section
/-! PROOF. The closed forms of B8ZS (44_b8zs.md §5, §6), by induction along the substitution: eight zeros and what follows
them, a 0 with no block ahead, or a 1. -/

namespace Sys2Proof.Safety

open Sys2Proof.Machine

theorem count_one_take_block (rest : List Bit) (j : Nat) :
    List.count Bit.one ((List.replicate 8 Bit.zero ++ rest).take (8 + j)) = (rest.take j).count .one := by
  have h := List.take_length_add_append (l₁ := List.replicate 8 Bit.zero) (l₂ := rest) j
  rw [List.length_replicate] at h
  rw [h, List.count_append, List.count_replicate, if_neg (by decide), Nat.zero_add]

/-- Where a bit is 1 its level is the polarity, inverted once for every 1 before it and for no block. -/
theorem b8zsLevels_getElem?_of_one (p : Pol) (bits : List Bit) (k : Nat) (h : bits[k]? = some .one) :
    (b8zsLevels p bits)[k]? = some (Pol.opp^[(bits.take k).count .one] p).toLevel := by
  induction p, bits using b8zs_induction generalizing k with
  | nil p => cases h
  | block p rest ih =>
    by_cases hk : k < 8
    · rw [List.getElem?_append_left (by simpa using hk), List.getElem?_replicate, if_pos hk] at h
      cases h
    · obtain ⟨j, rfl⟩ := Nat.exists_eq_add_of_le (Nat.not_lt.mp hk)
      rw [List.getElem?_append_right (by simp)] at h
      rw [b8zsLevels_block, List.getElem?_append_right (by simp [substitutionBlock_length]), substitutionBlock_length,
        Nat.add_sub_cancel_left, ih j (by simpa using h), count_one_take_block]
  | zero p rest hno ih =>
    rw [b8zsLevels_zero p rest hno]
    cases k with
    | zero => cases h
    | succ k => simpa using ih k h
  | one p rest ih =>
    rw [b8zsLevels_one]
    cases k with
    | zero => rfl
    | succ k => simpa using ih k h

/-- Settles O45: the even sample of a 1 is its level. -/
theorem b8zsOnesAlternate : Obligations.B8zsOnesAlternate := by
  intro s inp hv hf
  obtain ⟨-, hchars⟩ := (validInput_iff inp).mp hv
  refine ⟨resultOf .b8zs inp, exec_encodeOf_eq_resultOf .b8zs hv hf, fun k hk => ?_⟩
  have hone : (bitsOf inp)[k]? = some .one := by
    rw [bitsOf_getElem?, hk]
    rfl
  have hlevel := b8zsLevels_getElem?_of_one .plus (bitsOf inp) k hone
  rw [count_one_bitsOf_take hchars, iterate_opp_plus_toLevel] at hlevel
  simp only [resultOf, samples, getElem?_double_even, hlevel]

/-! ### No block -/

theorem b8zsLevels_eq_amiLevels (p : Pol) (bits : List Bit) (h : ¬ List.replicate 8 .zero <:+: bits) :
    b8zsLevels p bits = amiLevels p bits := by
  induction p, bits using b8zs_induction with
  | nil p => exact b8zsLevels_nil p
  | block p rest ih => exact absurd (List.prefix_append (List.replicate 8 Bit.zero) rest).isInfix h
  | zero p rest hno ih =>
    rw [b8zsLevels_zero p rest hno, ih fun hrest => h (List.infix_cons hrest)]
    rfl
  | one p rest ih =>
    rw [b8zsLevels_one, ih fun hrest => h (List.infix_cons hrest)]
    rfl

/-- Eight bits 0 in a row come from eight characters '0' in a row. -/
theorem replicate_zero_infix_of_bitsOf {inp : List Char} (h : List.replicate 8 .zero <:+: bitsOf inp) :
    List.replicate 8 '0' <:+: inp := by
  obtain ⟨part, hpart, hbits⟩ := List.infix_map_iff.mp h
  have hlen : part.length = 8 := by simpa using (congrArg List.length hbits).symm
  have hpart0 : part = List.replicate 8 '0' := by
    refine List.eq_replicate_iff.mpr ⟨hlen, fun c hc => (bitOfChar_eq_zero_iff c).mp ?_⟩
    exact List.eq_of_mem_replicate (hbits ▸ List.mem_map_of_mem hc)
  rwa [← hpart0]

/-- Settles O47: with no block the levels are AMI's, and so is the whole result. -/
theorem b8zsWithoutZeroRunIsAmi : Obligations.B8zsWithoutZeroRunIsAmi := by
  intro s inp hv hf hno
  refine ⟨resultOf .b8zs inp, exec_encodeOf_eq_resultOf .b8zs hv hf, ?_⟩
  have hlevels := b8zsLevels_eq_amiLevels .plus (bitsOf inp) fun h => hno (replicate_zero_infix_of_bitsOf h)
  have hresult : resultOf .b8zs inp = resultOf .bipolarAmi inp := by simp only [resultOf, samples, hlevels]
  rw [hresult]
  exact exec_encodeOf_eq_resultOf .bipolarAmi hv hf

/-! ### A run of zeros -/

/-- A block ahead ends before the next 1. -/
theorem block_prefix_of_append_one {bits post : List Bit} (h : List.replicate 8 .zero <+: bits ++ .one :: post) :
    List.replicate 8 .zero <+: bits := by
  have hone : Bit.one ∉ List.replicate 8 Bit.zero := by decide
  rw [List.append_cons] at h
  rcases List.prefix_or_prefix_of_prefix h (List.prefix_append (bits ++ [.one]) post) with h | h
  · rcases List.prefix_concat_iff.mp h with heq | hpre
    · exact absurd (heq ▸ List.mem_append_right bits List.mem_cons_self) hone
    · exact hpre
  · exact absurd (h.subset (List.mem_append_right bits List.mem_cons_self)) hone

/-- A 1 cuts the encoding: what stands before it is encoded as though nothing followed. -/
theorem b8zsLevels_append_one (p : Pol) (pre post : List Bit) :
    b8zsLevels p (pre ++ .one :: post) =
      b8zsLevels p pre ++ (Pol.opp^[pre.count .one] p).toLevel :: b8zsLevels (Pol.opp^[pre.count .one] p).opp post := by
  induction p, pre using b8zs_induction with
  | nil p => simp [b8zsLevels_nil, b8zsLevels_one]
  | block p rest ih =>
    rw [List.append_assoc, b8zsLevels_block, b8zsLevels_block, ih]
    simp
  | zero p rest hno ih =>
    have hno' : ¬ List.replicate 8 .zero <+: Bit.zero :: (rest ++ .one :: post) :=
      fun h => hno (block_prefix_of_append_one (bits := .zero :: rest) h)
    rw [List.cons_append, b8zsLevels_zero _ _ hno', b8zsLevels_zero p rest hno, ih]
    simp
  | one p rest ih => simp [b8zsLevels_one, ih]

theorem b8zsLevels_append (p : Pol) {pre : List Bit} (post : List Bit) (h : pre = [] ∨ pre.getLast? = some .one) :
    b8zsLevels p (pre ++ post) = b8zsLevels p pre ++ b8zsLevels (Pol.opp^[pre.count .one] p) post := by
  rcases h with rfl | hlast
  · simp [b8zsLevels_nil]
  · obtain ⟨init, rfl⟩ := List.getLast?_eq_some_iff.mp hlast
    rw [List.append_assoc, List.singleton_append, b8zsLevels_append_one, b8zsLevels_append_one, b8zsLevels_nil]
    simp [Function.iterate_succ_apply']

theorem not_block_prefix_of_short {len : Nat} {post : List Bit} (hlen : len < 8)
    (hpost : post = [] ∨ post.head? = some .one) : ¬ List.replicate 8 .zero <+: List.replicate len .zero ++ post := by
  have hshort : ¬ List.replicate 8 Bit.zero <+: List.replicate len .zero := by
    intro h
    have := h.length_le
    simp only [List.length_replicate] at this
    omega
  rcases hpost with rfl | hhead
  · rwa [List.append_nil]
  · obtain ⟨tail, rfl⟩ := List.head?_eq_some_iff.mp hhead
    exact fun h => hshort (block_prefix_of_append_one h)

/-- Fewer than eight zeros before a 1 or the end stay zeros. -/
theorem b8zsLevels_short_zeros (p : Pol) {len : Nat} {post : List Bit} (hlen : len < 8)
    (hpost : post = [] ∨ post.head? = some .one) :
    b8zsLevels p (List.replicate len .zero ++ post) = List.replicate len .zero ++ b8zsLevels p post := by
  induction len with
  | zero => rfl
  | succ len ih =>
    have hno := not_block_prefix_of_short hlen hpost
    rw [List.replicate_succ (n := len), List.cons_append] at hno ⊢
    rw [b8zsLevels_zero _ _ hno, ih (by omega)]
    rfl

theorem b8zsLevels_zero_run (p : Pol) {post : List Bit} (hpost : post = [] ∨ post.head? = some .one) (len j : Nat)
    (hj : j < len) :
    (b8zsLevels p (List.replicate len .zero ++ post))[j]? =
      if j < 8 * (len / 8) then (substitutionBlock p)[j % 8]? else some .zero := by
  induction len using Nat.strong_induction_on generalizing j with
  | _ len ih =>
    by_cases hlen : len < 8
    · rw [b8zsLevels_short_zeros p hlen hpost, List.getElem?_append_left (by simpa using hj), List.getElem?_replicate,
        if_pos hj, if_neg (by omega)]
    · obtain ⟨m, rfl⟩ := Nat.exists_eq_add_of_le (Nat.not_lt.mp hlen)
      rw [List.replicate_add, List.append_assoc, b8zsLevels_block]
      by_cases hj8 : j < 8
      · rw [List.getElem?_append_left (by simpa [substitutionBlock_length] using hj8), if_pos (by omega),
          Nat.mod_eq_of_lt hj8]
      · obtain ⟨i, rfl⟩ := Nat.exists_eq_add_of_le (Nat.not_lt.mp hj8)
        have hcond : i < 8 * (m / 8) ↔ 8 + i < 8 * ((8 + m) / 8) := by omega
        rw [List.getElem?_append_right (by simp [substitutionBlock_length]), substitutionBlock_length,
          Nat.add_sub_cancel_left, ih m (by omega) i (by omega), Nat.add_mod_left]
        simp only [hcond]

theorem substitutionBlock_iterate (n : Nat) :
    substitutionBlock (Pol.opp^[n] .plus) =
      if n % 2 = 0 then [Level.zero, .zero, .zero, .neg, .zero, .pos, .neg, .pos]
      else [Level.zero, .zero, .zero, .pos, .zero, .neg, .pos, .neg] := by
  rw [iterate_opp_plus]
  split <;> rfl

theorem bitsOf_replicate_zero (len : Nat) : bitsOf (List.replicate len '0') = List.replicate len .zero := by
  simp [bitsOf]

/-- Settles O46: the part before the run ends in a 1, or is empty, and does not reach into it. -/
theorem b8zsZeroRun : Obligations.B8zsZeroRun := by
  intro s pre post len hv hf hpre hpost
  refine ⟨_, exec_encodeOf_eq_resultOf .b8zs hv hf, fun j hj => ?_⟩
  obtain ⟨-, hchars⟩ := (validInput_iff _).mp hv
  have hpre' : bitsOf pre = [] ∨ (bitsOf pre).getLast? = some .one := by
    refine hpre.imp (fun h => by rw [h]; rfl) fun h => ?_
    rw [bitsOf, List.getLast?_map, h]
    rfl
  have hpost' : bitsOf post = [] ∨ (bitsOf post).head? = some .one := by
    refine hpost.imp (fun h => by rw [h]; rfl) fun h => ?_
    rw [bitsOf, List.head?_map, h]
    rfl
  have hcount : (bitsOf pre).count .one = pre.count '1' := count_one_bitsOf fun c hc => hchars c (by simp [hc])
  simp only [resultOf, samples, getElem?_double_even, List.append_assoc, bitsOf_append, bitsOf_replicate_zero]
  rw [b8zsLevels_append _ _ hpre', List.getElem?_append_right (by simp [b8zsLevels_length]), b8zsLevels_length,
    bitsOf_length, Nat.add_sub_cancel_left, b8zsLevels_zero_run _ hpost' len j hj, hcount, substitutionBlock_iterate]

end Sys2Proof.Safety
end

section
/-! PROOF. The widths of a realisation (20_memory.md R38, 10_state.md R26, 30_encoding.md R57): packed elements, time values
and the lookahead test in fields that are wide enough. -/

namespace Sys2Proof.Safety

open Sys2Proof.Machine

/-! ### Packed words -/

/-- A packed word as a number: element 0 lowest, and `fill` above the last (20_memory.md R38). -/
def packedNat (w : Nat) (group : List (BitVec w)) (fill : Nat) : Nat :=
  group.foldr (fun x above => x.toNat + 2 ^ w * above) fill

theorem packWord_eq_packedNat (w width j : Nat) (group : List (BitVec w)) :
    packWord w width j group = BitVec.ofNat width (packedNat w group (Config.packFill j)) := rfl

theorem packedNat_cons (w : Nat) (x : BitVec w) (group : List (BitVec w)) (fill : Nat) :
    packedNat w (x :: group) fill = x.toNat + 2 ^ w * packedNat w group fill := rfl

/-- Dividing the elements below away leaves element `i` lowest. -/
theorem packedNat_element (w : Nat) (group : List (BitVec w)) (fill i : Nat) (h : i < group.length) :
    packedNat w group fill / 2 ^ (w * i) % 2 ^ w = group[i].toNat := by
  induction group generalizing i with
  | nil => cases h
  | cons x group ih =>
    rw [packedNat_cons]
    cases i with
    | zero => simp [Nat.add_mul_mod_self_left, Nat.mod_eq_of_lt x.isLt]
    | succ i =>
      rw [Nat.mul_succ, Nat.add_comm (w * i), Nat.pow_add, ← Nat.div_div_eq_div_mul,
        Nat.add_mul_div_left _ _ (Nat.two_pow_pos w), Nat.div_eq_of_lt x.isLt, Nat.zero_add]
      exact ih i (Nat.lt_of_succ_lt_succ h)

/-- Cutting a number to `width` bits keeps every field that lies within them. -/
theorem mod_two_pow_field (n : Nat) {lo w width : Nat} (h : lo + w ≤ width) :
    n % 2 ^ width / 2 ^ lo % 2 ^ w = n / 2 ^ lo % 2 ^ w := by
  obtain ⟨d, rfl⟩ := Nat.exists_eq_add_of_le h
  rw [Nat.add_assoc, Nat.pow_add, Nat.mod_mul_right_div_self, Nat.mod_mod_of_dvd _ (pow_dvd_pow 2 (Nat.le_add_right w d))]

theorem extractLsb'_packWord {w e width : Nat} (j : Nat) {group : List (BitVec w)} {i : Nat} (hi : i < group.length)
    (hie : i < e) (hwidth : w * e ≤ width) : (packWord w width j group).extractLsb' (w * i) w = group[i] := by
  have hfield : w * i + w ≤ width := by
    rw [← Nat.mul_succ]
    exact (Nat.mul_le_mul_left w hie).trans hwidth
  apply BitVec.eq_of_toNat_eq
  rw [BitVec.extractLsb'_toNat, packWord_eq_packedNat, BitVec.toNat_ofNat, Nat.shiftRight_eq_div_pow,
    mod_two_pow_field _ hfield, packedNat_element w group _ i hi]

/-- Word `i / e` of a packing is there when element `i` is. -/
theorem div_lt_wordCount {e i n : Nat} (he : 0 < e) (hi : i < n) : i / e < (n + e - 1) / e := by
  have hle : i / e * e ≤ i := Nat.div_mul_le_self i e
  rw [Nat.lt_div_iff_mul_lt he]
  omega

theorem pack_getElem? (w e width : Nat) (xs : List (BitVec w)) {j : Nat} (h : j < (xs.length + e - 1) / e) :
    (pack w e width xs)[j]? = some (packWord w width j ((xs.drop (j * e)).take e)) := by
  simp [pack, h]

/-- Settles O55: element `i` of the sequence is element `i mod e` of its group. -/
theorem packedElementsReadBack : Obligations.PackedElementsReadBack := by
  intro w e width xs he hwidth i hi
  have hmod : i % e < e := Nat.mod_lt i he
  have hsplit : i / e * e + i % e = i := Nat.div_add_mod' i e
  have hgroup : i % e < ((xs.drop (i / e * e)).take e).length := by
    rw [List.length_take, List.length_drop]
    omega
  rw [packedElement, pack_getElem? w e width xs (div_lt_wordCount he hi), Option.map_some,
    extractLsb'_packWord _ hgroup hmod hwidth, List.getElem?_eq_getElem hi]
  simp only [List.getElem_take, List.getElem_drop, hsplit]

/-! ### Index widths -/

theorem idxWidth_bounds {p : Params} {width nMax : Nat} (hwf : p.wf = true) (hwidth : p.idxWidth = some width)
    (hmax : p.nMax = some nMax) : nMax + 1 ≤ 2 ^ width ∧ 2 * nMax ≤ 2 ^ width := by
  have hwide : p.idxWide = true := (Bool.and_eq_true_iff.mp hwf).2
  simpa [Params.idxWide, hwidth, hmax] using hwide

theorem nMax_of_idxWidth {p : Params} {width : Nat} (hwf : p.wf = true) (hwidth : p.idxWidth = some width) :
    ∃ nMax, p.nMax = some nMax := by
  have hwide : p.idxWide = true := (Bool.and_eq_true_iff.mp hwf).2
  cases hmax : p.nMax with
  | none => simp [Params.idxWide, hwidth, hmax] at hwide
  | some nMax => exact ⟨nMax, rfl⟩

/-- A sample index of an operand that fits is its own field. -/
theorem taxField_of_lt {p : Params} {inp : List Char} {i : Nat} (hwf : p.wf = true) (hf : Fits p inp)
    (hi : i < 2 * inp.length) : taxField p i = i := by
  cases hwidth : p.idxWidth with
  | none => simp only [taxField, hwidth]
  | some width =>
    obtain ⟨nMax, hmax⟩ := nMax_of_idxWidth hwf hwidth
    obtain ⟨-, hwide⟩ := idxWidth_bounds hwf hwidth hmax
    have hlen := (fits_iff p inp).mp hf nMax hmax
    simp only [taxField, hwidth, BitVec.toNat_ofNat]
    exact Nat.mod_eq_of_lt (by omega)

/-- Settles O56: every value of the time axis is a sample index of an operand that fits. -/
theorem timeAxisFitsIndexWidth : Obligations.TimeAxisFitsIndexWidth := by
  intro s sch inp hwf hv hf
  refine ⟨resultOf sch inp, exec_encodeOf_eq_resultOf sch hv hf, ?_⟩
  have hid : ∀ i ∈ List.range (2 * inp.length), taxField s.params i = id i :=
    fun i hi => taxField_of_lt hwf hf (List.mem_range.mp hi)
  exact (List.map_congr_left hid).trans (List.map_id _)

/-- Settles O57: neither index is cut, and their difference is not negative. -/
theorem narrowLookaheadTestIsExact : Obligations.NarrowLookaheadTestIsExact := by
  intro p nMax width cur n hwf hmax hwidth hcur hn
  obtain ⟨hwide, -⟩ := idxWidth_bounds hwf hwidth hmax
  have hle : BitVec.ofNat width cur ≤ BitVec.ofNat width n := by
    rw [BitVec.le_def, BitVec.toNat_ofNat, BitVec.toNat_ofNat, Nat.mod_eq_of_lt (by omega), Nat.mod_eq_of_lt (by omega)]
    exact hcur
  rw [blockFitsNarrow, BitVec.toNat_sub_of_le hle, BitVec.toNat_ofNat, BitVec.toNat_ofNat, Nat.mod_eq_of_lt (by omega),
    Nat.mod_eq_of_lt (by omega), b8zsWindow, decide_eq_decide]
  omega

end Sys2Proof.Safety
end
